-- ==== Sys2Proof/Word.lean ====
section
/-! DEFINITION. The block's word type (00_scope.md R6, R9) and its fixed-size banks of words, as plain records. -/

namespace Sys2Proof

/-- A 32-bit unsigned word (R6: WORD). -/
abbrev Word := BitVec 32

/-- One byte of key, nonce, message or keystream. -/
abbrev Byte := BitVec 8

/-- Two words: the nonce registers NONCE (R24) and NONCE_IN (R31). -/
structure Words2 where
  w0 : Word
  w1 : Word
deriving DecidableEq, Repr, Inhabited

/-- Eight words: the key registers KEY (R23) and KEY_IN (R30). -/
structure Words8 where
  w0 : Word
  w1 : Word
  w2 : Word
  w3 : Word
  w4 : Word
  w5 : Word
  w6 : Word
  w7 : Word
deriving DecidableEq, Repr, Inhabited

/-- Sixteen words: a state matrix X (R10, R22), and the banks KS (R28) and H (R35).
The matrix reads row by row: word i is at row i / 4, column i mod 4 (R22). -/
structure Words16 where
  w0 : Word
  w1 : Word
  w2 : Word
  w3 : Word
  w4 : Word
  w5 : Word
  w6 : Word
  w7 : Word
  w8 : Word
  w9 : Word
  w10 : Word
  w11 : Word
  w12 : Word
  w13 : Word
  w14 : Word
  w15 : Word
deriving DecidableEq, Repr, Inhabited

/-- Two zero words. -/
def Words2.zero : Words2 := ⟨0, 0⟩

/-- Eight zero words. -/
def Words8.zero : Words8 := ⟨0, 0, 0, 0, 0, 0, 0, 0⟩

/-- Sixteen zero words. -/
def Words16.zero : Words16 := ⟨0, 0, 0, 0, 0, 0, 0, 0, 0, 0, 0, 0, 0, 0, 0, 0⟩

end Sys2Proof
end

