-- ==== Sys2Proof/Config.lean ====
section
/-! DEFINITION. What an implementation fixes and what the spec leaves open (00_scope.md R6, R7; 92_eei_decisions.md,
open parameters; 93_implementation_defined.md part 2). Every opaque constant here is a free value: it has no body, so
nothing can be proved of the value it takes. -/

namespace Sys2Proof.Config

/-- KEY_BYTES (R6): the one legal KLEN of INIT. -/
def keyBytes : Nat := 32

/-- NONCE_BYTES (R6): the one legal NLEN of INIT. -/
def nonceBytes : Nat := 8

/-- DOUBLE_ROUNDS (R6, R117). -/
def doubleRounds : Nat := 10

/-- BLOCK_BYTES (R6). -/
def blockBytes : Nat := 64

/-- XOR_MAX_BYTES (R6). -/
def xorMaxBytes : Nat := 4

/-- CMD_LATENCY(cmd, state) - 1, so that CMD_LATENCY is at least 1 (R7, R218).
Its arguments are the command word and public stream state only (FSM, EXH, OFFSET), so that it cannot depend on a secret
(R219). Log 2. -/
opaque extraLatency (cmd : Word) (fsm : BitVec 2) (exh : Bool) (offset : Fin 65) : Nat

/-- The n-th value that a read of a slot of W(PCMD) returns while BUSY = 1 (R66: "The model draws it freely"). Log 4. -/
opaque freeRead (n : Nat) : Word

/-- PCMD after a reset event (R48: unspecified). Log 6. -/
opaque freePcmd (n : Nat) : Word

/-- The working copy of the matrix after reset and while a command runs (R46, R48: unspecified). Log 6, log 7. -/
opaque freeWork (n : Nat) : Words16

/-- The round position after reset and while a command runs (R46, R48: unspecified). Log 6, log 7. -/
opaque freeRoundPos (n : Nat) : Fin 11

/-- BASE: where the 256-byte register window sits in the host's address space (R76: the platform's parameter). Log 13. -/
opaque base : Nat

end Sys2Proof.Config
end

