-- ==== Sys2Proof/Syntax.lean ====
section
/-! DEFINITION. The commands: one constructor for each row of spec/opcode_table.json (30_encoding.md R92, R94). -/

namespace Sys2Proof

/-- A command and its argument fields, as wide as the command word holds them (R92, R93). -/
inductive Instr where
  /-- NOP, OP 0x00 (41_control_commands.md R144). -/
  | nop
  /-- INIT klen, nlen, OP 0x01: KLEN = A, NLEN = B (R141). -/
  | init (klen nlen : BitVec 8)
  /-- SEEK boff, OP 0x02: BOFF = A[5:0] (R142). -/
  | seek (boff : BitVec 6)
  /-- XOR len, OP 0x03: LEN = A[2:0], legal from 0 to 4 (42_keystream_commands.md R161). -/
  | xor (len : BitVec 3)
  /-- HASH, OP 0x04 (R162). -/
  | hash
  /-- CLEAR, OP 0x05 (R143). -/
  | clear
deriving DecidableEq, Repr

end Sys2Proof
end

