-- ==== Sys2Proof/WellFormed.lean ====
section
/-! DEFINITION. Which terms of Instr the encoding admits (30_encoding.md R92, R97). -/

namespace Sys2Proof

/-- Every argument fits its field by its type; the one further limit is LEN <= 4 for XOR (R92, R97). INIT admits every
KLEN and NLEN: another length than 32 and 8 is legal and fails at completion (R98). -/
def Instr.wf : Instr → Bool
  | .nop => true
  | .init _ _ => true
  | .seek _ => true
  | .xor len => decide (len.toNat ≤ 4)
  | .hash => true
  | .clear => true

end Sys2Proof
end

