-- ==== Sys2Proof/Decode.lean ====
section
/-! DEFINITION. The command word: fields, decoder, and encoder (30_encoding.md R90 to R100). -/

namespace Sys2Proof

/-- `OP = w[7:0]` (R91). -/
def fieldOp (w : Word) : BitVec 8 := w.extractLsb' 0 8

/-- `A = w[15:8]` (R91). -/
def fieldA (w : Word) : BitVec 8 := w.extractLsb' 8 8

/-- `B = w[23:16]` (R91). -/
def fieldB (w : Word) : BitVec 8 := w.extractLsb' 16 8

/-- `Z = w[31:24]` (R91). -/
def fieldZ (w : Word) : BitVec 8 := w.extractLsb' 24 8

/-- BOFF = A[5:0] (R92). -/
def fieldBoff (w : Word) : BitVec 6 := w.extractLsb' 8 6

/-- LEN = A[2:0] (R92). -/
def fieldLen (w : Word) : BitVec 3 := w.extractLsb' 8 3

/-- Why a word is illegal. Each reason is an IllegalCommand at completion (R186). -/
inductive Reject where
  /-- OP is 0x06 to 0xFF (R95). -/
  | reservedOpcode
  /-- OP is defined, and a bit that must be zero is not (R96). -/
  | mustBeZero
  /-- An XOR word with LEN = 5, 6 or 7 (R97). -/
  | xorLength
deriving DecidableEq, Repr

/-- One row of the opcode map: the word w selects it when `w AND mask = pattern` (R94). -/
structure Row where
  pattern : Word
  mask : Word
deriving DecidableEq, Repr

/-- The word w selects this row (R94). -/
def Row.selects (r : Row) (w : Word) : Bool := w &&& r.mask == r.pattern

/-- The opcode map's match and mask columns (R94). -/
def Row.nop : Row := ⟨0x00000000, 0xFFFFFFFF⟩
def Row.init : Row := ⟨0x00000001, 0xFF0000FF⟩
def Row.seek : Row := ⟨0x00000002, 0xFFFFC0FF⟩
def Row.xor : Row := ⟨0x00000003, 0xFFFFF8FF⟩
def Row.hash : Row := ⟨0x00000004, 0xFFFFFFFF⟩
def Row.clear : Row := ⟨0x00000005, 0xFFFFFFFF⟩

/-- The opcode map, in its order (R94). -/
def opcodeMap : List Row := [.nop, .init, .seek, .xor, .hash, .clear]

/-- The row an instruction belongs to. -/
def Instr.row : Instr → Row
  | .nop => .nop
  | .init _ _ => .init
  | .seek _ => .seek
  | .xor _ => .xor
  | .hash => .hash
  | .clear => .clear

/-- The decoder, total on every word (R94, R100). The reason given for an illegal word is the reader's aid: every one of
them is the same IllegalCommand (R186). -/
def decode (w : Word) : Except Reject Instr :=
  if Row.nop.selects w then .ok .nop
  else if Row.init.selects w then .ok (.init (fieldA w) (fieldB w))
  else if Row.seek.selects w then .ok (.seek (fieldBoff w))
  else if Row.xor.selects w then
    if (fieldLen w).toNat ≤ 4 then .ok (.xor (fieldLen w)) else .error .xorLength
  else if Row.hash.selects w then .ok .hash
  else if Row.clear.selects w then .ok .clear
  else if (fieldOp w).toNat ≤ 5 then .error .mustBeZero
  else .error .reservedOpcode

/-- The word with the four fields Z, B, A, OP, from the high bits down (R91). -/
def assembleFields (z b a op : BitVec 8) : Word := z ++ b ++ a ++ op

/-- The encoder, from the argument table R92. -/
def encode : Instr → Word
  | .nop => assembleFields 0 0 0 0x00
  | .init klen nlen => assembleFields 0 nlen klen 0x01
  | .seek boff => assembleFields 0 0 ((0 : BitVec 2) ++ boff) 0x02
  | .xor len => assembleFields 0 0 ((0 : BitVec 5) ++ len) 0x03
  | .hash => assembleFields 0 0 0 0x04
  | .clear => assembleFields 0 0 0 0x05

/-- The word of the opcode table's numbering: the low nbits bits of w, every bit above them 0. -/
def tableWord (nbits w : Nat) : Nat := w % 2 ^ nbits

/-- The decoder's answer on a word numbered as spec/opcode_table.json numbers it. A command is one 32-bit word (R90), so a
number that does not fit one is no command. -/
def decodeTableWord (nbits w : Nat) : Option Instr :=
  if tableWord nbits w < 2 ^ 32 then
    match decode (BitVec.ofNat 32 (tableWord nbits w)) with
    | .ok i => some i
    | .error _ => none
  else none

end Sys2Proof
end

