-- ==== Sys2Proof/Machine/State.lean ====
section
/-! DEFINITION. Everything the spec gives the block (10_state.md R20 to R50), and the state after reset (R48). -/

namespace Sys2Proof.Machine

/-- The instance state (R27). -/
inductive Fsm where
  /-- 0: no instance. -/
  | uninit
  /-- 1: INIT succeeded and no block has been generated since. -/
  | initialized
  /-- 2: at least one block has been generated since INIT. -/
  | generating
  /-- 3: a command needed a block while EXH = 1. -/
  | overflow
deriving DecidableEq, Repr

/-- Nothing of this block stops the machine: every transaction completes (20_memory.md R60), every command completes with a
result code (60_exceptions.md R180, R189), and no read can be of an unwritten register (70_reset_and_hazards.md R212). So
there is no fault to name, and the type is empty. Safe: there is nothing to raise. -/
inductive Fault where
deriving DecidableEq, Repr

/-- Why exec has no meaning for an instruction. -/
inductive Refusal where
  /-- Raised by an arm of exec whose instruction has no meaning yet. No arm raises it now. Safe: nothing is claimed of a
  refused instruction. -/
  | notModelled (mnemonic : String)
deriving DecidableEq, Repr

/-- What the outside does in one step: a host transaction (R60), a host pseudo-instruction that polls or waits (30_encoding.md
R102, 20_memory.md R79), or reset (70_reset_and_hazards.md R210). Log 1. -/
inductive Input where
  /-- The host does nothing in this step. -/
  | idle
  /-- `MemRead(off, 4)`. -/
  | read (off : BitVec 8)
  /-- `MemWrite(off, 4, v)`. -/
  | write (off : BitVec 8) (v : Word)
  /-- WAIT: one `RD STATUS` a step until bit 0 (BUSY) reads 0 (R102). -/
  | wait
  /-- The host waits for IRQ = 1 (R79). -/
  | waitIrq
  /-- The platform asserts reset (R210). -/
  | reset
deriving DecidableEq, Repr

/-- The block's state. The last four fields are the model's own. -/
structure State where
  /-- KEY[0..7] (R23). -/
  key : Words8
  /-- NONCE[0..1] (R24). -/
  nonce : Words2
  /-- CTR, the block counter (R25). -/
  ctr : BitVec 64
  /-- EXH, counter exhausted (R26). -/
  exh : Bool
  /-- FSM, the instance state (R27). -/
  fsm : Fsm
  /-- KS[0..15], the keystream buffer (R28). -/
  ks : Words16
  /-- OFFSET, the count of consumed KS bytes, 0 to 64 (R29). Log 9. -/
  offset : Fin 65
  /-- KEY_IN[0..7] (R30). -/
  keyIn : Words8
  /-- NONCE_IN[0..1] (R31). -/
  nonceIn : Words2
  /-- CTRSET_LO (R32). -/
  ctrsetLo : Word
  /-- CTRSET_HI (R32). -/
  ctrsetHi : Word
  /-- DIN (R33). -/
  din : Word
  /-- DOUT (R34). -/
  dout : Word
  /-- H[0..15], the hash bank (R35). -/
  h : Words16
  /-- BUSY (R36). -/
  busy : Bool
  /-- DONE (R37). -/
  done : Bool
  /-- WERR (R38). -/
  werr : Bool
  /-- ERR (R39). -/
  err : BitVec 4
  /-- CTRL.IE (R40). -/
  ie : Bool
  /-- PCMD, the latched command word (R36, R46). -/
  pcmd : Word
  /-- The working copy of the matrix (R46). No access observes it. Log 7. -/
  work : Words16
  /-- How many of the ten double rounds are done (R46). No access observes it. Log 7. -/
  roundPos : Fin 11
  /-- Model: busy steps left before the completion step (R7). Log 2. -/
  latencyLeft : Nat
  /-- Model: how many free values have been drawn. Log 4. -/
  draws : Nat
  /-- Model: what the host and the reset line do next, oldest first. Log 1. -/
  inputs : List Input
  /-- Model: the values host reads have returned, latest first. Log 12. -/
  reads : List Word
deriving DecidableEq, Repr

/-- The state right after reset (R48, R211). PCMD, the working copy and the round position are unspecified there and take
the value log 6 names; the model's own fields start empty (log 1, 2, 4, 12). -/
def State.reset : State where
  key := Words8.zero
  nonce := Words2.zero
  ctr := 0
  exh := false
  fsm := .uninit
  ks := Words16.zero
  offset := 64
  keyIn := Words8.zero
  nonceIn := Words2.zero
  ctrsetLo := 0
  ctrsetHi := 0
  din := 0
  dout := 0
  h := Words16.zero
  busy := false
  done := false
  werr := false
  err := 0
  ie := false
  pcmd := 0
  work := Words16.zero
  roundPos := 0
  latencyLeft := 0
  draws := 0
  inputs := []
  reads := []

end Sys2Proof.Machine
end

