-- ==== Sys2Proof/Machine/Operands.lean ====
section
/-! DEFINITION. Operand forms: the banks by index, little-endian bytes of words (20_memory.md R68 to R72), the commands'
argument values (30_encoding.md R93). -/

namespace Sys2Proof

/-- Word i of the bank (R10). -/
def Words2.get (x : Words2) (i : Fin 2) : Word :=
  match i.val with
  | 0 => x.w0
  | _ => x.w1

/-- The bank with word i replaced by v (R10). -/
def Words2.set (x : Words2) (i : Fin 2) (v : Word) : Words2 :=
  match i.val with
  | 0 => { x with w0 := v }
  | _ => { x with w1 := v }

/-- Word i of the bank (R10). -/
def Words8.get (x : Words8) (i : Fin 8) : Word :=
  match i.val with
  | 0 => x.w0
  | 1 => x.w1
  | 2 => x.w2
  | 3 => x.w3
  | 4 => x.w4
  | 5 => x.w5
  | 6 => x.w6
  | _ => x.w7

/-- The bank with word i replaced by v (R10). -/
def Words8.set (x : Words8) (i : Fin 8) (v : Word) : Words8 :=
  match i.val with
  | 0 => { x with w0 := v }
  | 1 => { x with w1 := v }
  | 2 => { x with w2 := v }
  | 3 => { x with w3 := v }
  | 4 => { x with w4 := v }
  | 5 => { x with w5 := v }
  | 6 => { x with w6 := v }
  | _ => { x with w7 := v }

/-- Word i of the bank (R10). -/
def Words16.get (x : Words16) (i : Fin 16) : Word :=
  match i.val with
  | 0 => x.w0
  | 1 => x.w1
  | 2 => x.w2
  | 3 => x.w3
  | 4 => x.w4
  | 5 => x.w5
  | 6 => x.w6
  | 7 => x.w7
  | 8 => x.w8
  | 9 => x.w9
  | 10 => x.w10
  | 11 => x.w11
  | 12 => x.w12
  | 13 => x.w13
  | 14 => x.w14
  | _ => x.w15

/-- The bank with word i replaced by v (R10). -/
def Words16.set (x : Words16) (i : Fin 16) (v : Word) : Words16 :=
  match i.val with
  | 0 => { x with w0 := v }
  | 1 => { x with w1 := v }
  | 2 => { x with w2 := v }
  | 3 => { x with w3 := v }
  | 4 => { x with w4 := v }
  | 5 => { x with w5 := v }
  | 6 => { x with w6 := v }
  | 7 => { x with w7 := v }
  | 8 => { x with w8 := v }
  | 9 => { x with w9 := v }
  | 10 => { x with w10 := v }
  | 11 => { x with w11 := v }
  | 12 => { x with w12 := v }
  | 13 => { x with w13 := v }
  | 14 => { x with w14 := v }
  | _ => { x with w15 := v }

end Sys2Proof

namespace Sys2Proof.Machine

/-- Byte j of a word, byte 0 in bits 7:0 (R70, R71). -/
def wordByte (w : Word) (j : Nat) : Byte := w.extractLsb' (8 * j) 8

/-- The word w with byte j replaced by b, the form of the assignments to `out[8j+7:8j]` (R161). -/
def setByte (w : Word) (j : Nat) (b : Byte) : Word :=
  (w &&& ~~~((0xFF : Word) <<< (8 * j))) ||| (b.setWidth 32 <<< (8 * j))

/-- The word of four bytes, b0 in bits 7:0 (R68, R69). -/
def leWord (b0 b1 b2 b3 : Byte) : Word := b3 ++ b2 ++ b1 ++ b0

/-- Byte k of sixteen words, little-endian per word: `W[floor(k/4)][8*(k mod 4)+7 : 8*(k mod 4)]` (R11, R71, R123). -/
def blockByte (x : Words16) (k : Fin 64) : Byte :=
  wordByte (x.get ⟨k.val / 4, by have := k.isLt; omega⟩) (k.val % 4)

/-- `Serialize(W)`: the 64 bytes of sixteen words (R123). -/
def serialize (x : Words16) : List Byte := (List.finRange 64).map (blockByte x)

/-- The counter's low and high words, c[31:0] and c[63:32] (R72, R120). -/
def counterLo (c : BitVec 64) : Word := c.extractLsb' 0 32
def counterHi (c : BitVec 64) : Word := c.extractLsb' 32 32

/-- The 64-bit starting counter `{CTRSET_HI, CTRSET_LO}` (R32, R72). -/
def startCounter (s : State) : BitVec 64 := s.ctrsetHi ++ s.ctrsetLo

/-- KLEN = zext(A), a key length in bytes (R93). -/
def keyLength (klen : BitVec 8) : Nat := klen.toNat

/-- NLEN = zext(B), a nonce length in bytes (R93). -/
def nonceLength (nlen : BitVec 8) : Nat := nlen.toNat

/-- BOFF = zext(A[5:0]) as a value of OFFSET, 0 to 63 (R93, R142). -/
def byteOffset (boff : BitVec 6) : Fin 65 := ⟨boff.toNat, by have := boff.isLt; omega⟩

/-- LEN = zext(A[2:0]), a count of bytes (R93). -/
def byteCount (len : BitVec 3) : Nat := len.toNat

end Sys2Proof.Machine
end

