-- ==== Sys2Proof/Machine/Datapath.lean ====
section
/-! DEFINITION. The ARX datapath: pure functions that no command is and none touches a register (40_arx_datapath.md R110 to
R123). -/

namespace Sys2Proof.Machine

/-- `rotl32(v, r)`, 0 < r < 32: `((v << r) | (v >> (32 - r)))[31:0]` (R9, R111). -/
def rotl32 (v : Word) (r : Nat) : Word := (v <<< r) ||| (v >>> (32 - r))

/-- The rotate-add unit, `RA(x, y, r) = rotl32((x + y) mod 2^32, r)` (R110). -/
def rotateAdd (x y : Word) (r : Nat) : Word := rotl32 (x + y) r

/-- The four words of a quarter-round group (R112). -/
structure Quad where
  a : Word
  b : Word
  c : Word
  d : Word
deriving DecidableEq, Repr

/-- `QR(a, b, c, d)`, each line using what the lines before it produced (R112). -/
def quarterRound (q : Quad) : Quad :=
  let b' := q.b ^^^ rotateAdd q.a q.d 7
  let c' := q.c ^^^ rotateAdd b' q.a 9
  let d' := q.d ^^^ rotateAdd c' b' 13
  let a' := q.a ^^^ rotateAdd d' c' 18
  ⟨a', b', c', d'⟩

/-- `ColumnRound(X)`: QR on the groups (0, 4, 8, 12), (5, 9, 13, 1), (10, 14, 2, 6), (15, 3, 7, 11) (R113, R114). -/
def columnRound (x : Words16) : Words16 :=
  let g0 := quarterRound ⟨x.w0, x.w4, x.w8, x.w12⟩
  let g1 := quarterRound ⟨x.w5, x.w9, x.w13, x.w1⟩
  let g2 := quarterRound ⟨x.w10, x.w14, x.w2, x.w6⟩
  let g3 := quarterRound ⟨x.w15, x.w3, x.w7, x.w11⟩
  { w0 := g0.a, w4 := g0.b, w8 := g0.c, w12 := g0.d
    w5 := g1.a, w9 := g1.b, w13 := g1.c, w1 := g1.d
    w10 := g2.a, w14 := g2.b, w2 := g2.c, w6 := g2.d
    w15 := g3.a, w3 := g3.b, w7 := g3.c, w11 := g3.d }

/-- `RowRound(X)`: QR on the groups (0, 1, 2, 3), (5, 6, 7, 4), (10, 11, 8, 9), (15, 12, 13, 14) (R113, R115). -/
def rowRound (x : Words16) : Words16 :=
  let g0 := quarterRound ⟨x.w0, x.w1, x.w2, x.w3⟩
  let g1 := quarterRound ⟨x.w5, x.w6, x.w7, x.w4⟩
  let g2 := quarterRound ⟨x.w10, x.w11, x.w8, x.w9⟩
  let g3 := quarterRound ⟨x.w15, x.w12, x.w13, x.w14⟩
  { w0 := g0.a, w1 := g0.b, w2 := g0.c, w3 := g0.d
    w5 := g1.a, w6 := g1.b, w7 := g1.c, w4 := g1.d
    w10 := g2.a, w11 := g2.b, w8 := g2.c, w9 := g2.d
    w15 := g3.a, w12 := g3.b, w13 := g3.c, w14 := g3.d }

/-- `DoubleRound(X) = RowRound(ColumnRound(X))` (R116). -/
def doubleRound (x : Words16) : Words16 := rowRound (columnRound x)

/-- n double rounds in sequence. -/
def doubleRounds : Nat → Words16 → Words16
  | 0, x => x
  | n + 1, x => doubleRounds n (doubleRound x)

/-- `Permute(X) = DoubleRound^10(X)` (R117). No command returns it without the feed-forward (R118). -/
def permute (x : Words16) : Words16 := doubleRounds Config.doubleRounds x

/-- Word-by-word addition modulo 2^32 (R119). -/
def addWords (x y : Words16) : Words16 where
  w0 := x.w0 + y.w0
  w1 := x.w1 + y.w1
  w2 := x.w2 + y.w2
  w3 := x.w3 + y.w3
  w4 := x.w4 + y.w4
  w5 := x.w5 + y.w5
  w6 := x.w6 + y.w6
  w7 := x.w7 + y.w7
  w8 := x.w8 + y.w8
  w9 := x.w9 + y.w9
  w10 := x.w10 + y.w10
  w11 := x.w11 + y.w11
  w12 := x.w12 + y.w12
  w13 := x.w13 + y.w13
  w14 := x.w14 + y.w14
  w15 := x.w15 + y.w15

/-- `Core(X)[i] = (Permute(X)[i] + X[i]) mod 2^32`: the permutation with its feed-forward (R119). -/
def coreFunction (x : Words16) : Words16 := addWords (permute x) x

/-- The sigma constants (R121). -/
def sigma0 : Word := 0x61707865
def sigma1 : Word := 0x3320646E
def sigma2 : Word := 0x79622D32
def sigma3 : Word := 0x6B206574

/-- `Layout(KEY, NONCE, c)`: the state matrix for block counter c (R120, R22). -/
def layout (key : Words8) (nonce : Words2) (c : BitVec 64) : Words16 where
  w0 := sigma0
  w1 := key.w0
  w2 := key.w1
  w3 := key.w2
  w4 := key.w3
  w5 := sigma1
  w6 := nonce.w0
  w7 := nonce.w1
  w8 := counterLo c
  w9 := counterHi c
  w10 := sigma2
  w11 := key.w4
  w12 := key.w5
  w13 := key.w6
  w14 := key.w7
  w15 := sigma3

/-- `Block(KEY, NONCE, c) = Core(Layout(KEY, NONCE, c))` (R122). -/
def block (key : Words8) (nonce : Words2) (c : BitVec 64) : Words16 := coreFunction (layout key nonce c)

end Sys2Proof.Machine
end

