-- ==== Sys2Proof/Machine/Flags.lean ====
section
/-! DEFINITION. Status: the codes of FSM and ERR, the STATUS and CTRL words, IRQ, and the counter-exhausted flag's rule
(10_state.md R26 to R50, 60_exceptions.md R180). The block has no arithmetic flags (R47). -/

namespace Sys2Proof.Machine

/-- The 2-bit code of the instance state (R27). -/
def Fsm.code : Fsm → BitVec 2
  | .uninit => 0
  | .initialized => 1
  | .generating => 2
  | .overflow => 3

/-- The result codes (R180). -/
inductive ResultCode where
  /-- Every successful command. -/
  | ok
  /-- INIT (R181). -/
  | invalidKeyLength
  /-- INIT (R182). -/
  | invalidNonceLength
  /-- XOR, SEEK (R184). -/
  | counterOverflow
  /-- XOR, SEEK (R185). -/
  | invalidState
  /-- Any illegal word (R186). -/
  | illegalCommand
deriving DecidableEq, Repr

/-- The 4-bit number of a result code in STATUS.ERR (R180). -/
def ResultCode.number : ResultCode → BitVec 4
  | .ok => 0
  | .invalidKeyLength => 1
  | .invalidNonceLength => 2
  | .counterOverflow => 3
  | .invalidState => 4
  | .illegalCommand => 5

/-- One status bit as a 1-bit field. -/
def bit (b : Bool) : BitVec 1 := BitVec.ofBool b

/-- The STATUS register: `{9'b0, OFFSET[6:0], 4'b0, ERR[3:0], 2'b0, FSM[1:0], EXH, WERR, DONE, BUSY}` (R41, R62). -/
def statusWord (s : State) : Word :=
  (0 : BitVec 9) ++ BitVec.ofNat 7 s.offset.val ++ (0 : BitVec 4) ++ s.err ++ (0 : BitVec 2) ++ s.fsm.code ++
    bit s.exh ++ bit s.werr ++ bit s.done ++ bit s.busy

/-- The CTRL register: `zext_32(CTRL.IE)` (R40, R62). -/
def ctrlWord (s : State) : Word := (0 : BitVec 31) ++ bit s.ie

/-- The one output, `IRQ = DONE & CTRL.IE` (R50, R191). -/
def irq (s : State) : Bool := s.done && s.ie

/-- `NextCtr(c) = (c + 1) mod 2^64` (R124). -/
def nextCtr (c : BitVec 64) : BitVec 64 := c + 1

/-- `Wraps(c) = (c == 2^64 - 1)`: what sets EXH (R124, R26). -/
def wraps (c : BitVec 64) : Bool := c == 0xFFFFFFFFFFFFFFFF

end Sys2Proof.Machine
end

