-- ==== Sys2Proof/Machine/Ops.lean ====
section
/-! DEFINITION. The operations the commands share: completion, raising an error and acknowledging one (60_exceptions.md),
the refill, and reset (70_reset_and_hazards.md R210). -/

namespace Sys2Proof.Machine

/-- Completion, successful or not: `ERR <- code; BUSY <- 0; DONE <- 1` (R140, R189). IRQ follows from DONE (R50). -/
def complete (code : ResultCode) (s : State) : State :=
  { s with err := code.number, busy := false, done := true, latencyLeft := 0 }

/-- A command ends successfully with its effects in s. -/
def finish (s : State) : Host.Outcome State Fault Refusal := .next (complete .ok s)

/-- `raise E(code)`, this block's exception: the command ends with the code and none of its effects (R183). Nothing is
saved and control does not move (R189). -/
def raise (code : ResultCode) (s : State) : Host.Outcome State Fault Refusal := .next (complete code s)

/-- The acknowledge of a completion, `DONE <- 0` (R190). -/
def acknowledge (s : State) : State := { s with done := false }

/-- The completion of an illegal word: IllegalCommand (R140, R186). -/
def raiseIllegal (s : State) : Host.Outcome State Fault Refusal := raise .illegalCommand s

/-- `Refill()`: generates the block of CTR (R125). Its callers have checked EXH = 0. -/
def refill (s : State) : State :=
  { s with
    ks := block s.key s.nonce s.ctr
    exh := s.exh || wraps s.ctr
    ctr := nextCtr s.ctr
    offset := 0
    fsm := .generating }

/-- Reset: every piece of state to its reset value, a pending command aborted (R210). The internal state is unspecified
afterwards (R48), so it is drawn freely (log 6). The host's own record (inputs, reads) and the draw counter are not the
block's (log 12). -/
def applyReset (s : State) : State :=
  { State.reset with
    pcmd := Config.freePcmd s.draws
    work := Config.freeWork s.draws
    roundPos := Config.freeRoundPos s.draws
    draws := s.draws + 1
    inputs := s.inputs
    reads := s.reads }

end Sys2Proof.Machine
end

