-- ==== Sys2Proof/Machine/Control.lean ====
section
/-! DEFINITION. The control commands NOP, INIT, SEEK, CLEAR (41_control_commands.md). Each is the body of `Execute` with the
completion of R140. -/

namespace Sys2Proof.Machine

/-- NOP: `return 0` (R144). -/
def execNop (s : State) : Host.Outcome State Fault Refusal := finish s

/-- The effects of a successful INIT: a new instance from KEY_IN and NONCE_IN (R141). -/
def newInstance (s : State) : State :=
  { s with
    key := s.keyIn
    nonce := s.nonceIn
    ctr := 0
    exh := false
    offset := 64
    ks := Words16.zero
    dout := 0
    fsm := .initialized }

/-- INIT klen, nlen (R141): KLEN is checked first, then NLEN (R181, R182, R188). -/
def execInit (klen nlen : BitVec 8) (s : State) : Host.Outcome State Fault Refusal :=
  if keyLength klen ≠ Config.keyBytes then raise .invalidKeyLength s
  else if nonceLength nlen ≠ Config.nonceBytes then raise .invalidNonceLength s
  else finish (newInstance s)

/-- The effects of a successful SEEK: CTR <- CTRSET, and for BOFF ≠ 0 one block with its first BOFF bytes skipped (R142). -/
def seekTo (boff : BitVec 6) (s : State) : State :=
  let t := { s with ctr := startCounter s, exh := false, offset := 64 }
  if boff = 0 then t else { refill t with offset := byteOffset boff }

/-- SEEK boff (R142): allowed only in INITIALIZED (R184, R185, R188). -/
def execSeek (boff : BitVec 6) (s : State) : Host.Outcome State Fault Refusal :=
  match s.fsm with
  | .uninit => raise .invalidState s
  | .overflow => raise .counterOverflow s
  | .generating => raise .invalidState s
  | .initialized => finish (seekTo boff s)

/-- The effects of CLEAR: every data register zeroed, no instance; CTRL.IE and WERR kept (R143). -/
def zeroize (s : State) : State :=
  { s with
    key := Words8.zero
    nonce := Words2.zero
    keyIn := Words8.zero
    nonceIn := Words2.zero
    ctrsetLo := 0
    ctrsetHi := 0
    ctr := 0
    exh := false
    offset := 64
    ks := Words16.zero
    din := 0
    dout := 0
    h := Words16.zero
    fsm := .uninit }

/-- CLEAR (R143). -/
def execClear (s : State) : Host.Outcome State Fault Refusal := finish (zeroize s)

end Sys2Proof.Machine
end

