-- ==== Sys2Proof/Machine/Keystream.lean ====
section
/-! DEFINITION. The keystream commands XOR and HASH (42_keystream_commands.md). -/

namespace Sys2Proof.Machine

/-- A refill where the buffer has no unconsumed byte: `if OFFSET == 64 then Refill()` (R161). -/
def refillIfEmpty (s : State) : State := if s.offset = 64 then refill s else s

/-- The keystream byte OFFSET of KS (R29). OFFSET is below 64 wherever it is used. -/
def nextKeystreamByte (s : State) : Byte := blockByte s.ks (Fin.ofNat 64 s.offset.val)

/-- The loop of XOR: the bytes j, j+1, ... of the result, n of them, on the state they leave and on out (R161). -/
def xorBytes : Nat → Nat → Word → State → State × Word
  | 0, _, out, s => (s, out)
  | n + 1, j, out, s =>
    let t := refillIfEmpty s
    let b := wordByte t.din j ^^^ nextKeystreamByte t
    xorBytes n (j + 1) (setByte out j b) { t with offset := t.offset + 1 }

/-- The effects of a successful XOR of n bytes: the bytes, then `DOUT <- out` (R161). -/
def xorEffect (n : Nat) (s : State) : State :=
  let r := xorBytes n 0 0 s
  { r.1 with dout := r.2 }

/-- `n > 64 - OFFSET and EXH == 1`: the request needs a block after the last one (R161, R184). -/
def exhausted (n : Nat) (s : State) : Bool := decide (n > Config.blockBytes - s.offset.val) && s.exh

/-- XOR len (R161). An XOR with LEN above 4 is illegal and raises IllegalCommand before any state is examined (R97, R188):
the decoder yields no such term (log 10). -/
def execXor (len : BitVec 3) (s : State) : Host.Outcome State Fault Refusal :=
  if byteCount len > Config.xorMaxBytes then raiseIllegal s
  else
    match s.fsm with
    | .uninit => raise .invalidState s
    | .overflow => raise .counterOverflow s
    | .initialized | .generating =>
      if exhausted (byteCount len) s then raise .counterOverflow { s with fsm := .overflow }
      else finish (xorEffect (byteCount len) s)

/-- HASH: `H <- Core(H)` (R162). -/
def execHash (s : State) : Host.Outcome State Fault Refusal := finish { s with h := coreFunction s.h }

end Sys2Proof.Machine
end

