-- ==== Sys2Proof/Machine/Dispatch.lean ====
section
/-! DEFINITION. The meaning of each command, one arm per row of the opcode map (30_encoding.md R94). -/

namespace Sys2Proof.Machine

def exec (i : Instr) (s : State) : Host.Outcome State Fault Refusal :=
  match i with
  | .nop => Sys2Proof.Machine.execNop s
  | .init klen nlen => Sys2Proof.Machine.execInit klen nlen s
  | .seek boff => Sys2Proof.Machine.execSeek boff s
  | .xor len => Sys2Proof.Machine.execXor len s
  | .hash => Sys2Proof.Machine.execHash s
  | .clear => Sys2Proof.Machine.execClear s

end Sys2Proof.Machine
end

