-- ==== Sys2Proof/Machine/Port.lean ====
section
/-! DEFINITION. The register port: the map (10_state.md R44), offset decode (20_memory.md R61), reads (R62, R66), writes (R63
to R65). -/

namespace Sys2Proof.Machine

/-- The registers of the map (R44). -/
inductive Slot where
  | ctrl
  | status
  | cmd
  | din
  | dout
  | ctrLo
  | ctrHi
  | ctrsetLo
  | ctrsetHi
  | keyIn (i : Fin 8)
  | nonceIn (i : Fin 2)
  | ks (i : Fin 16)
  | h (i : Fin 16)
  | reserved
deriving DecidableEq, Repr

/-- The register at word slot n, 0 to 63 (R44). -/
def slotAt (n : Nat) : Slot :=
  if n < 16 then
    match n with
    | 0 => .ctrl
    | 1 => .status
    | 2 => .cmd
    | 3 => .din
    | 4 => .dout
    | 5 => .ctrLo
    | 6 => .ctrHi
    | 7 => .ctrsetLo
    | 8 => .ctrsetHi
    | _ => .reserved
  else if n < 24 then .keyIn (Fin.ofNat 8 (n - 16))
  else if n < 26 then .nonceIn (Fin.ofNat 2 (n - 24))
  else if n < 32 then .reserved
  else if n < 48 then .ks (Fin.ofNat 16 (n - 32))
  else .h (Fin.ofNat 16 (n - 48))

/-- `slot = off[7:2]`; off[1:0] are ignored (R61). -/
def slotOf (off : BitVec 8) : Slot := slotAt (off.extractLsb' 2 6).toNat

/-- The byte offset of a register (R44); a reserved slot's is 0x24, the first reserved offset. -/
def Slot.offset : Slot → BitVec 8
  | .ctrl => 0x00
  | .status => 0x04
  | .cmd => 0x08
  | .din => 0x0C
  | .dout => 0x10
  | .ctrLo => 0x14
  | .ctrHi => 0x18
  | .ctrsetLo => 0x1C
  | .ctrsetHi => 0x20
  | .keyIn i => BitVec.ofNat 8 (0x40 + 4 * i.val)
  | .nonceIn i => BitVec.ofNat 8 (0x60 + 4 * i.val)
  | .ks i => BitVec.ofNat 8 (0x80 + 4 * i.val)
  | .h i => BitVec.ofNat 8 (0xC0 + 4 * i.val)
  | .reserved => 0x24

/-- Where the platform's host finds byte offset off (R76). Log 13. -/
def hostAddress (off : BitVec 8) : Nat := Config.base + off.toNat

/-- The value a read returns, but for R66 (R62). -/
def slotValue (s : State) : Slot → Word
  | .ctrl => ctrlWord s
  | .status => statusWord s
  | .cmd => 0
  | .din => s.din
  | .dout => s.dout
  | .ctrLo => counterLo s.ctr
  | .ctrHi => counterHi s.ctr
  | .ctrsetLo => s.ctrsetLo
  | .ctrsetHi => s.ctrsetHi
  | .keyIn _ => 0
  | .nonceIn i => s.nonceIn.get i
  | .ks i => s.ks.get i
  | .h i => s.h.get i
  | .reserved => 0

/-- CTR_LO and CTR_HI. -/
def Slot.isCounter : Slot → Bool
  | .ctrLo | .ctrHi => true
  | _ => false

/-- KS[i]. -/
def Slot.isKs : Slot → Bool
  | .ks _ => true
  | _ => false

/-- H[i]. -/
def Slot.isHash : Slot → Bool
  | .h _ => true
  | _ => false

/-- The registers CLEAR zeroes that have a slot (R143). -/
def Slot.isCleared : Slot → Bool
  | .din | .dout | .ctrLo | .ctrHi | .ctrsetLo | .ctrsetHi | .keyIn _ | .nonceIn _ | .ks _ | .h _ => true
  | .ctrl | .status | .cmd | .reserved => false

/-- `W(PCMD)`, by the opcode field of the pending word, which is one of the sets R66 allows for an illegal word (R66, log 5). -/
def resultSlot (pcmd : Word) (sl : Slot) : Bool :=
  if fieldOp pcmd = 0x01 ∨ fieldOp pcmd = 0x03 then sl == .dout || sl.isCounter || sl.isKs
  else if fieldOp pcmd = 0x02 then sl.isCounter || sl.isKs
  else if fieldOp pcmd = 0x04 then sl.isHash
  else if fieldOp pcmd = 0x05 then sl.isCleared
  else false

/-- `MemRead(off, 4)`: the value goes to the host. While BUSY = 1 a slot of W(PCMD) gives a free value (R62, R66). -/
def portRead (off : BitVec 8) (s : State) : State :=
  if s.busy && resultSlot s.pcmd (slotOf off) then
    { s with reads := Config.freeRead s.draws :: s.reads, draws := s.draws + 1 }
  else { s with reads := slotValue s (slotOf off) :: s.reads }

/-- An accepted CMD write: `PCMD <- v; BUSY <- 1; DONE <- 0` (R63, R190). The latency starts (R7, log 2), and the internal
state becomes the running command's (R46, log 7). -/
def accept (v : Word) (s : State) : State :=
  { acknowledge s with
    pcmd := v
    busy := true
    latencyLeft := Config.extraLatency v s.fsm.code s.exh s.offset
    work := Config.freeWork s.draws
    roundPos := Config.freeRoundPos s.draws
    draws := s.draws + 1 }

/-- A STATUS write: bits 1 and 2 are write-1-to-clear (R41, R64). -/
def writeStatus (v : Word) (s : State) : State :=
  { s with done := s.done && !v.getLsbD 1, werr := s.werr && !v.getLsbD 2 }

/-- The effect of a write that is not dropped (R63, R64). -/
def writeSlot (v : Word) (s : State) : Slot → State
  | .ctrl => { s with ie := v.getLsbD 0 }
  | .status => writeStatus v s
  | .cmd => accept v s
  | .din => { s with din := v }
  | .ctrsetLo => { s with ctrsetLo := v }
  | .ctrsetHi => { s with ctrsetHi := v }
  | .keyIn i => { s with keyIn := s.keyIn.set i v }
  | .nonceIn i => { s with nonceIn := s.nonceIn.set i v }
  | .h i => { s with h := s.h.set i v }
  | .dout | .ctrLo | .ctrHi | .ks _ | .reserved => s

/-- The registers a write to which is dropped while BUSY = 1 (R65). -/
def Slot.isFrozen : Slot → Bool
  | .cmd | .din | .ctrsetLo | .ctrsetHi | .keyIn _ | .nonceIn _ | .h _ => true
  | .ctrl | .status | .dout | .ctrLo | .ctrHi | .ks _ | .reserved => false

/-- `MemWrite(off, 4, v)`: a dropped write sets WERR and does nothing else (R63, R65, R187). -/
def portWrite (off : BitVec 8) (v : Word) (s : State) : State :=
  if s.busy && (slotOf off).isFrozen then { s with werr := true } else writeSlot v s (slotOf off)

end Sys2Proof.Machine
end

