-- ==== Sys2Proof/Machine/Agents.lean ====
section
/-! DEFINITION. The three agents, core, host and reset, and which of them moves (10_state.md R20, 20_memory.md R78,
70_reset_and_hazards.md R210, R218). -/

namespace Sys2Proof.Machine

/-- The platform asserts reset now. -/
def resetPending (s : State) : Bool := s.inputs.head? == some .reset

/-- The core's completion step is due: a command is pending and its latency has passed (R140, R218). -/
def completionDue (s : State) : Bool := s.busy && s.latencyLeft == 0

/-- CoreStep(): decodes PCMD and executes it; an illegal word raises IllegalCommand (R140). -/
def coreStep (s : State) : Host.Outcome State Fault Refusal :=
  match decode s.pcmd with
  | .ok i => exec i s
  | .error _ => raiseIllegal s

/-- One step of a running command short of its completion: the latency counts down and the internal state moves on
unobserved (R7, R46, log 7). -/
def coreTick (s : State) : State :=
  if s.busy then
    { s with
      latencyLeft := s.latencyLeft - 1
      work := Config.freeWork s.draws
      roundPos := Config.freeRoundPos s.draws
      draws := s.draws + 1 }
  else s

/-- The next host action, on a state whose core has ticked; a WAIT stays until it has read BUSY = 0, and a wait for IRQ
until IRQ = 1 (R60, R79, R102). -/
def hostAction (s : State) : State :=
  match s.inputs with
  | [] => s
  | .idle :: rest => { s with inputs := rest }
  | .read off :: rest => { portRead off s with inputs := rest }
  | .write off v :: rest => { portWrite off v s with inputs := rest }
  | .wait :: rest =>
    if (statusWord s).getLsbD 0 then portRead Slot.status.offset s
    else { portRead Slot.status.offset s with inputs := rest }
  | .waitIrq :: rest => if irq s then { s with inputs := rest } else s
  | .reset :: rest => { applyReset s with inputs := rest }

/-- One atomic transition. Reset comes before everything (R188, R210, log 8); then a completion that is due (R140); then
the host (R78). With nothing pending and no input the block stays as it is (R211). -/
def transition (s : State) : Host.Outcome State Fault Refusal :=
  if resetPending s then .next (hostAction s)
  else if completionDue s then coreStep s
  else .next (hostAction (coreTick s))

end Sys2Proof.Machine
end

