-- ==== Sys2Proof/Machine/Step.lean ====
section
/-! DEFINITION. The step, and how the host's check places one command word before it. -/

namespace Sys2Proof.Machine

/-- One step of the block with its host and its reset line. -/
def step (s : State) : Host.Outcome State Fault Refusal := transition s

/-- The block with the command word w pending and its completion due: what a CMD write of w leaves once its latency has
passed (20_memory.md R63, 41_control_commands.md R140). A reset that stands first in the inputs is taken out, since it would
abort the command (R210). Log 3. -/
def State.withFetchWord (s : State) (nbits w : Nat) : State :=
  { s with
    pcmd := BitVec.ofNat 32 (tableWord nbits w)
    busy := true
    done := false
    latencyLeft := 0
    inputs := s.inputs.dropWhile (fun i => i == .reset) }

end Sys2Proof.Machine
end

