-- ==== Sys2Proof/Machine/HostOps.lean ====
section
/-! DEFINITION. The host's pseudo-instructions, each a list of port transactions (30_encoding.md R102), and the boot sequence
(70_reset_and_hazards.md R213). They are put in State's inputs; the block itself never runs them. -/

namespace Sys2Proof.Machine

/-- `WR REG, v` (R102). -/
def hostWR (r : Slot) (v : Word) : List Input := [.write r.offset v]

/-- `RD REG` (R102). -/
def hostRD (r : Slot) : List Input := [.read r.offset]

/-- `CMD <command>` (R102). -/
def hostCMD (i : Instr) : List Input := hostWR .cmd (encode i)

/-- `WAIT` (R102). -/
def hostWAIT : List Input := [.wait]

/-- `DO <command>` (R102). -/
def hostDO (i : Instr) : List Input := hostCMD i ++ hostWAIT

/-- The word of bytes 4i to 4i+3 of the key (R68). -/
def keyWord (k : Fin 32 → Byte) (i : Fin 8) : Word :=
  leWord (k ⟨4 * i.val, by omega⟩) (k ⟨4 * i.val + 1, by omega⟩) (k ⟨4 * i.val + 2, by omega⟩) (k ⟨4 * i.val + 3, by omega⟩)

/-- The word of bytes 4i to 4i+3 of the nonce (R69). -/
def nonceWord (n : Fin 8 → Byte) (i : Fin 2) : Word :=
  leWord (n ⟨4 * i.val, by omega⟩) (n ⟨4 * i.val + 1, by omega⟩) (n ⟨4 * i.val + 2, by omega⟩) (n ⟨4 * i.val + 3, by omega⟩)

/-- `LOADKEY k[0..31]` (R102). -/
def hostLOADKEY (k : Fin 32 → Byte) : List Input :=
  (List.finRange 8).flatMap fun i => hostWR (.keyIn i) (keyWord k i)

/-- `LOADNONCE n[0..7]` (R102). -/
def hostLOADNONCE (n : Fin 8 → Byte) : List Input :=
  (List.finRange 2).flatMap fun i => hostWR (.nonceIn i) (nonceWord n i)

/-- `ENC4 v` (R102). -/
def hostENC4 (v : Word) : List Input := hostWR .din v ++ hostDO (.xor 4) ++ hostRD .dout

/-- `KS4` (R102). -/
def hostKS4 : List Input := hostENC4 0

/-- Step 4 of the boot sequence: start at block c, byte boff (R213, R142). -/
def hostStartAt (c : BitVec 64) (boff : BitVec 6) : List Input :=
  hostWR .ctrsetLo (counterLo c) ++ hostWR .ctrsetHi (counterHi c) ++ hostDO (.seek boff)

/-- Step 5 of the boot sequence: enable the interrupt (R213, R40). -/
def hostEnableIrq : List Input := hostWR .ctrl 1

/-- Steps 1 to 3 of the boot sequence: the key, the nonce, INIT 32, 8, and the check of STATUS (R213). -/
def hostBoot (k : Fin 32 → Byte) (n : Fin 8 → Byte) : List Input :=
  hostLOADKEY k ++ hostLOADNONCE n ++ hostDO (.init 32 8) ++ hostRD .status

end Sys2Proof.Machine
end

