-- ==== Sys2Proof/Safety.lean ====
section
/-! DEFINITION. What a safe run keeps, and the notions the statements speak of: the invariant, the stream position and its
keystream (42_keystream_commands.md R160, R163, R165), and what an observer of timing and errors may see
(70_reset_and_hazards.md R219). -/

namespace Sys2Proof.Machine

/-- The invariant of the instance registers in each FSM state (10_state.md R27, 42_keystream_commands.md R160).
With an instance that has generated a block, KS is the block before CTR and EXH says that CTR has wrapped (R124). -/
def StreamInv (s : State) : Prop :=
  match s.fsm with
  | .uninit =>
    s.key = Words8.zero ∧ s.nonce = Words2.zero ∧ s.ctr = 0 ∧ s.exh = false ∧ s.ks = Words16.zero ∧ s.offset = 64 ∧ s.dout = 0
  | .initialized => s.exh = false ∧ s.ks = Words16.zero ∧ s.offset = 64 ∧ s.dout = 0
  | .generating => s.ks = block s.key s.nonce (s.ctr - 1) ∧ 0 < s.offset.val ∧ (s.exh = true ↔ s.ctr = 0)
  | .overflow => s.ks = block s.key s.nonce (s.ctr - 1) ∧ s.exh = true ∧ s.ctr = 0

/-- The invariant of the handshake: BUSY and DONE are never up together (R36, R37), no latency runs without a pending
command, and ERR is one of the codes 0 to 5 (R180). -/
def HandshakeInv (s : State) : Prop :=
  (s.busy = true → s.done = false) ∧ (s.busy = false → s.latencyLeft = 0) ∧ s.err.toNat ≤ 5

/-- The block's invariant. -/
def BlockInv (s : State) : Prop := StreamInv s ∧ HandshakeInv s

/-- The instance can give keystream: FSM is INITIALIZED or GENERATING (R160, R165). -/
def Streaming (s : State) : Prop := s.fsm = .initialized ∨ s.fsm = .generating

/-- The number of keystream bytes still obtainable (R165). -/
def remaining (s : State) : Nat := (64 - s.offset.val) + (if s.exh then 0 else (2 ^ 64 - s.ctr.toNat) * 64)

/-- The position of the next keystream byte, counted from byte 0 of block 0 (R11, R160). -/
def streamPos (s : State) : Nat := (if s.exh then 2 ^ 64 else s.ctr.toNat) * 64 + s.offset.val - 64

/-- The keystream byte at position p: byte p mod 64 of block p / 64 (R11). -/
def keystreamByte (key : Words8) (nonce : Words2) (p : Nat) : Byte :=
  blockByte (block key nonce (BitVec.ofNat 64 (p / 64))) (Fin.ofNat 64 p)

/-- One `WR DIN, d; DO XOR len; RD DOUT` as seen at the command: the result word and the state, where the command
succeeds. -/
def xorRequest (len : BitVec 3) (d : Word) (s : State) : Option (Word × State) :=
  match exec (.xor len) { s with din := d } with
  | .next t => if t.err = ResultCode.ok.number then some (t.dout, t) else none
  | .fault _ => none
  | .refused _ => none

/-- A sequence of XOR requests that all succeed: the result words in order and the last state (R163). -/
def xorRun : List (BitVec 3 × Word) → State → Option (List Word × State)
  | [], s => some ([], s)
  | r :: rs, s =>
    match xorRequest r.1 r.2 s with
    | none => none
    | some (w, t) =>
      match xorRun rs t with
      | none => none
      | some (ws, u) => some (w :: ws, u)

/-- The first len bytes of a data word (R70). -/
def dataBytes (len : BitVec 3) (w : Word) : List Byte := (List.range len.toNat).map (wordByte w)

/-- The message bytes of a list of requests, in stream order (R70). -/
def requestBytes (rs : List (BitVec 3 × Word)) : List Byte := rs.flatMap fun r => dataBytes r.1 r.2

/-- The total length of a list of requests. -/
def requestLength (rs : List (BitVec 3 × Word)) : Nat := (rs.map fun r => r.1.toNat).sum

/-- Two states look the same to an observer of timing, errors and IRQ: they agree on everything but the secret values, the
key, the nonce, DIN, KS, H and what is computed from them or never observed (R219). -/
structure PublicEq (s t : State) : Prop where
  ctr : s.ctr = t.ctr
  exh : s.exh = t.exh
  fsm : s.fsm = t.fsm
  offset : s.offset = t.offset
  ctrsetLo : s.ctrsetLo = t.ctrsetLo
  ctrsetHi : s.ctrsetHi = t.ctrsetHi
  busy : s.busy = t.busy
  done : s.done = t.done
  werr : s.werr = t.werr
  err : s.err = t.err
  ie : s.ie = t.ie
  pcmd : s.pcmd = t.pcmd
  latencyLeft : s.latencyLeft = t.latencyLeft
  draws : s.draws = t.draws
  inputs : s.inputs = t.inputs

/-- s with another key in KEY and KEY_IN. -/
def withKeys (k kin : Words8) (s : State) : State := { s with key := k, keyIn := kin }

/-- s after a completion with this number in ERR and no other effect (R140, R183, R189). -/
def withResult (code : BitVec 4) (s : State) : State :=
  { s with err := code, busy := false, done := true, latencyLeft := 0 }

/-- The outcome is a next state with this FSM state and this number in ERR (R145). -/
def EndsIn (o : Host.Outcome State Fault Refusal) (f : Fsm) (code : BitVec 4) : Prop :=
  ∃ t, o = .next t ∧ t.fsm = f ∧ t.err = code

/-- A read at byte offset off gives v to the host and changes nothing else (R62). -/
def ReadsAs (s : State) (off : BitVec 8) (v : Word) : Prop := portRead off s = { s with reads := v :: s.reads }

/-- A write at byte offset off leaves the state t. -/
def WritesTo (s : State) (off : BitVec 8) (v : Word) (t : State) : Prop := portWrite off v s = t

/-- The byte offset off selects the word slot at byte offset base: only off[1:0] may differ (R61). -/
def AtSlot (off base : BitVec 8) : Prop := off &&& 0xFC = base

end Sys2Proof.Machine
end

