-- ==== Sys2Proof/Certificates/Slice0/Obligations.lean ====
section
/-! DEFINITION. The statements about the model, each from a rule of spec/ its docstring names. -/

open Sys2Proof Sys2Proof.Machine

/-! ## Encoding (30_encoding.md) -/

/-- The words of 95_test_vectors.md section 2.6 decode as listed there, and each of the nine legal ones is its command's
encoding; so is the word of SEEK 5 that 30_encoding.md section 2 gives. -/
def Obligations.SampleWordsDecodeAsListed : Prop :=
  decode 0x00000000 = .ok .nop ∧ decode 0x00082001 = .ok (.init 32 8) ∧ decode 0x00081001 = .ok (.init 16 8) ∧
  decode 0x00000002 = .ok (.seek 0) ∧ decode 0x00003F02 = .ok (.seek 63) ∧ decode 0x00000003 = .ok (.xor 0) ∧
  decode 0x00000403 = .ok (.xor 4) ∧ decode 0x00000004 = .ok .hash ∧ decode 0x00000005 = .ok .clear ∧
  decode 0x00000100 = .error .mustBeZero ∧ decode 0x00004002 = .error .mustBeZero ∧
  decode 0x00000503 = .error .xorLength ∧ decode 0x00000006 = .error .reservedOpcode ∧
  decode 0x000000FF = .error .reservedOpcode ∧ decode 0x01000000 = .error .mustBeZero ∧
  decode 0x01000403 = .error .mustBeZero ∧ decode 0x00010004 = .error .mustBeZero ∧
  encode .nop = 0x00000000 ∧ encode (.init 32 8) = 0x00082001 ∧ encode (.init 16 8) = 0x00081001 ∧
  encode (.seek 0) = 0x00000002 ∧ encode (.seek 63) = 0x00003F02 ∧ encode (.xor 0) = 0x00000003 ∧
  encode (.xor 4) = 0x00000403 ∧ encode .hash = 0x00000004 ∧ encode .clear = 0x00000005 ∧ encode (.seek 5) = 0x00000502

/-- Decoding an encoded well-formed command gives it back, with every argument at every value its field admits. -/
def Obligations.DecodeOfEncodeIsTheCommand : Prop :=
  ∀ i : Instr, i.wf = true → decode (encode i) = .ok i

/-- A word that decodes is the encoding of what it decodes to, and that is well-formed: each legal word has one meaning. -/
def Obligations.EncodeOfDecodeIsTheWord : Prop :=
  ∀ (w : Word) (i : Instr), decode w = .ok i → i.wf = true ∧ encode i = w

/-- The opcode map (R94): a word is a command exactly when its row's mask and match, and for XOR the limit on LEN, say so,
and its arguments are its fields; the canonical encodings. -/
def Obligations.OpcodeMapDecidesTheCommand : Prop :=
  (∀ w : Word,
    (decode w = .ok .nop ↔ w &&& 0xFFFFFFFF = 0x00000000) ∧
    (∀ klen nlen, decode w = .ok (.init klen nlen) ↔
      w &&& 0xFF0000FF = 0x00000001 ∧ klen = w.extractLsb' 8 8 ∧ nlen = w.extractLsb' 16 8) ∧
    (∀ boff, decode w = .ok (.seek boff) ↔ w &&& 0xFFFFC0FF = 0x00000002 ∧ boff = w.extractLsb' 8 6) ∧
    (∀ len, decode w = .ok (.xor len) ↔
      w &&& 0xFFFFF8FF = 0x00000003 ∧ len = w.extractLsb' 8 3 ∧ len.toNat ≤ 4) ∧
    (decode w = .ok .hash ↔ w &&& 0xFFFFFFFF = 0x00000004) ∧
    (decode w = .ok .clear ↔ w &&& 0xFFFFFFFF = 0x00000005) ∧
    (opcodeMap.filter fun r => w &&& r.mask == r.pattern).length ≤ 1) ∧
  encode (.init 32 8) = 0x00082001 ∧ encode (.xor 4) = 0x00000403 ∧ encode (.seek 5) = 0x00000502

/-- The illegal words (R95, R96, R97) are exactly: a reserved OP; a nonzero Z; nonzero A or B of NOP, HASH, CLEAR; nonzero
A[7:6] or B of SEEK; nonzero A[7:3] or B of XOR; LEN 5 to 7 of XOR. The completion step of any illegal word, in every FSM
state, changes nothing but ERR, BUSY and DONE (R186); latencyLeft is the model's own. XOR 0 is legal. -/
def Obligations.IllegalWordRaisesIllegalCommand : Prop :=
  (∀ w : Word, (∃ r, decode w = .error r) ↔
    (let op := (w.extractLsb' 0 8).toNat
     let a := w.extractLsb' 8 8
     let b := w.extractLsb' 16 8
     6 ≤ op ∨ w.extractLsb' 24 8 ≠ 0 ∨
     ((op = 0 ∨ op = 4 ∨ op = 5) ∧ (a ≠ 0 ∨ b ≠ 0)) ∨
     (op = 2 ∧ (a.extractLsb' 6 2 ≠ 0 ∨ b ≠ 0)) ∨
     (op = 3 ∧ (a.extractLsb' 3 5 ≠ 0 ∨ b ≠ 0)) ∨
     (op = 3 ∧ 5 ≤ (a.extractLsb' 0 3).toNat))) ∧
  (∀ (s : State) (r : Reject), decode s.pcmd = .error r →
    coreStep s = .next { s with err := 5, busy := false, done := true, latencyLeft := 0 }) ∧
  decode 0x00000003 = .ok (.xor 0)

/-! ## ARX datapath (40_arx_datapath.md) -/

/-- rotl32 moves bit (i - r) mod 32 to bit i, and the rotation by 32 - r undoes it. -/
def Obligations.RotationPermutesBits : Prop :=
  ∀ (v : Word) (r : Nat), 0 < r → r < 32 →
    (∀ i, i < 32 → (rotl32 v r).getLsbD i = v.getLsbD ((i + 32 - r) % 32)) ∧ rotl32 (rotl32 v r) (32 - r) = v

/-- The quarter-round is invertible. -/
def Obligations.QuarterRoundIsInvertible : Prop := Function.Bijective quarterRound

/-- Permute is a bijection of 16-word values that keeps 0, and is ten double rounds, each a column round and then a row
round. -/
def Obligations.PermutationIsABijection : Prop :=
  Function.Bijective permute ∧ permute Words16.zero = Words16.zero ∧
  ∀ x, permute x = (fun y => rowRound (columnRound y))^[10] x

/-- The column round and the row round apply the quarter-round to the groups of R114 and R115, every position in one. -/
def Obligations.RoundsMixAllFourGroups : Prop :=
  (∀ x : Words16, ∀ g ∈ ([(0, 4, 8, 12), (5, 9, 13, 1), (10, 14, 2, 6), (15, 3, 7, 11)] :
      List (Fin 16 × Fin 16 × Fin 16 × Fin 16)),
    (⟨(columnRound x).get g.1, (columnRound x).get g.2.1, (columnRound x).get g.2.2.1, (columnRound x).get g.2.2.2⟩ : Quad) =
      quarterRound ⟨x.get g.1, x.get g.2.1, x.get g.2.2.1, x.get g.2.2.2⟩) ∧
  (∀ x : Words16, ∀ g ∈ ([(0, 1, 2, 3), (5, 6, 7, 4), (10, 11, 8, 9), (15, 12, 13, 14)] :
      List (Fin 16 × Fin 16 × Fin 16 × Fin 16)),
    (⟨(rowRound x).get g.1, (rowRound x).get g.2.1, (rowRound x).get g.2.2.1, (rowRound x).get g.2.2.2⟩ : Quad) =
      quarterRound ⟨x.get g.1, x.get g.2.1, x.get g.2.2.1, x.get g.2.2.2⟩)

/-- The feed-forward (R119): Core(X)[i] = Permute(X)[i] + X[i] for all sixteen words, in every block and every HASH;
Core(0) = 0 and the example Core(0, 1, ..., 15). -/
def Obligations.CoreAddsTheFeedForward : Prop :=
  (∀ (x : Words16) (i : Fin 16),
    (coreFunction x).get i = BitVec.ofNat 32 (((permute x).get i).toNat + (x.get i).toNat)) ∧
  (∀ key nonce c, block key nonce c = coreFunction (layout key nonce c)) ∧
  (∀ s : State, ∃ t, exec .hash s = .next t ∧ t.h = coreFunction s.h) ∧
  coreFunction Words16.zero = Words16.zero ∧
  coreFunction ⟨0, 1, 2, 3, 4, 5, 6, 7, 8, 9, 10, 11, 12, 13, 14, 15⟩ =
    ⟨0xE1A0EBE0, 0x06032A02, 0x1EC19924, 0x91FFB36E, 0x83068335, 0xA7C06E2C, 0x75B43867, 0xCCF8517E,
     0xF61BA820, 0xAB1B8972, 0xEC9ED7F6, 0x478636B9, 0x745DD6AD, 0x8BBE722D, 0xA1CC9BDF, 0x5FC70CF0⟩

/-- The block of the zero key, zero nonce and counter 0 is the golden vector; the layout places constants, key, nonce and
counter as R120 and R121 give them. The positions and constants are the spec's general knowledge (log 14). -/
def Obligations.LayoutAndGoldenBlock : Prop :=
  (∀ (key : Words8) (nonce : Words2) (c : BitVec 64),
    layout key nonce c =
      ⟨0x61707865, key.get 0, key.get 1, key.get 2, key.get 3, 0x3320646E, nonce.get 0, nonce.get 1,
       BitVec.ofNat 32 c.toNat, BitVec.ofNat 32 (c.toNat / 2 ^ 32), 0x79622D32,
       key.get 4, key.get 5, key.get 6, key.get 7, 0x6B206574⟩) ∧
  block Words8.zero Words2.zero 0 =
    ⟨0x5BF6979A, 0x1B724C9B, 0x21670A96, 0xD4A8FC45, 0xF9672EE3, 0x79A91E11, 0x26489CCE, 0xE6EE6A80,
     0xDAC0E93D, 0x1EF9D72B, 0x9B63B2BC, 0x25C689F9, 0x38BF291B, 0xDC9B9AD3, 0x4B5FC5E7, 0x392AC12A⟩

/-- Serialization is little-endian per word (R71): 64 bytes, byte k the bits 8*(k mod 4)+7 to 8*(k mod 4) of word k / 4. -/
def Obligations.SerializationIsLittleEndian : Prop :=
  ∀ x : Words16, (serialize x).length = 64 ∧
    ∀ (i : Fin 16) (j : Nat), j < 4 →
      (serialize x)[4 * i.val + j]? = some (BitVec.ofNat 8 ((x.get i).toNat / 2 ^ (8 * j)))

/-- The counter advance (R124): NextCtr adds one modulo 2^64 with the low word carrying into the high word, Wraps holds of
2^64 - 1 alone, and a refill sets EXH on that wrap and no other. -/
def Obligations.CounterAdvancesModulo64Bits : Prop :=
  (∀ c : BitVec 64, (nextCtr c).toNat = (c.toNat + 1) % 2 ^ 64 ∧ (wraps c = true ↔ c.toNat = 2 ^ 64 - 1) ∧
    counterLo (nextCtr c) = counterLo c + 1 ∧
    counterHi (nextCtr c) = (if counterLo c = 0xFFFFFFFF then counterHi c + 1 else counterHi c)) ∧
  nextCtr 0x00000000FFFFFFFF = 0x0000000100000000 ∧
  ∀ s : State, s.exh = false → ((refill s).exh = true ↔ s.ctr.toNat = 2 ^ 64 - 1)

/-! ## Register port (20_memory.md) -/

/-- Reads while BUSY = 0 (R62): the value of each slot, and no side effect. The STATUS word is the sum of its fields at
their bit places. -/
def Obligations.IdleReadsFollowTheRegisterMap : Prop :=
  ∀ (s : State) (off : BitVec 8), s.busy = false →
    (AtSlot off 0x00 → ReadsAs s off (BitVec.ofNat 32 s.ie.toNat)) ∧
    (AtSlot off 0x04 → ReadsAs s off (BitVec.ofNat 32 (s.offset.val * 2 ^ 16 + s.err.toNat * 2 ^ 8 + s.fsm.code.toNat * 2 ^ 4 +
      s.exh.toNat * 2 ^ 3 + s.werr.toNat * 2 ^ 2 + s.done.toNat * 2 + s.busy.toNat))) ∧
    (AtSlot off 0x08 → ReadsAs s off 0) ∧
    (AtSlot off 0x0C → ReadsAs s off s.din) ∧
    (AtSlot off 0x10 → ReadsAs s off s.dout) ∧
    (AtSlot off 0x14 → ReadsAs s off (BitVec.ofNat 32 s.ctr.toNat)) ∧
    (AtSlot off 0x18 → ReadsAs s off (BitVec.ofNat 32 (s.ctr.toNat / 2 ^ 32))) ∧
    (AtSlot off 0x1C → ReadsAs s off s.ctrsetLo) ∧
    (AtSlot off 0x20 → ReadsAs s off s.ctrsetHi) ∧
    (0x24 ≤ off.toNat → off.toNat < 0x40 → ReadsAs s off 0) ∧
    (0x40 ≤ off.toNat → off.toNat < 0x60 → ReadsAs s off 0) ∧
    (∀ i : Fin 2, AtSlot off (BitVec.ofNat 8 (0x60 + 4 * i.val)) → ReadsAs s off (s.nonceIn.get i)) ∧
    (0x68 ≤ off.toNat → off.toNat < 0x80 → ReadsAs s off 0) ∧
    (∀ i : Fin 16, AtSlot off (BitVec.ofNat 8 (0x80 + 4 * i.val)) → ReadsAs s off (s.ks.get i)) ∧
    (∀ i : Fin 16, AtSlot off (BitVec.ofNat 8 (0xC0 + 4 * i.val)) → ReadsAs s off (s.h.get i))

/-- The STATUS register (R41): each field at its bits, reserved bits 0, the value at reset; a write acts on bits 1 and 2
alone, where the written bit is 1, whether BUSY is 0 or 1, and never sets WERR (R64). -/
def Obligations.StatusFieldsStandAtTheirBits : Prop :=
  (∀ s : State,
    (statusWord s).getLsbD 0 = s.busy ∧ (statusWord s).getLsbD 1 = s.done ∧ (statusWord s).getLsbD 2 = s.werr ∧
    (statusWord s).getLsbD 3 = s.exh ∧ (statusWord s).extractLsb' 4 2 = s.fsm.code ∧ (statusWord s).extractLsb' 6 2 = 0 ∧
    (statusWord s).extractLsb' 8 4 = s.err ∧ (statusWord s).extractLsb' 12 4 = 0 ∧
    ((statusWord s).extractLsb' 16 7).toNat = s.offset.val ∧ (statusWord s).extractLsb' 23 9 = 0) ∧
  (∀ (s : State) (off : BitVec 8) (v : Word), AtSlot off 0x04 → WritesTo s off v
    { s with done := if v.getLsbD 1 then false else s.done, werr := if v.getLsbD 2 then false else s.werr }) ∧
  statusWord State.reset = 0x00400000

/-- Writes while BUSY = 0 (R63), slot by slot. A CMD write latches the word and starts the command with no check and no
other effect; the latency, the internal state and the draw counter are the model's own. -/
def Obligations.IdleWritesFollowTheRegisterMap : Prop :=
  ∀ (s : State) (off : BitVec 8) (v : Word), s.busy = false →
    (AtSlot off 0x00 → WritesTo s off v { s with ie := v.getLsbD 0 }) ∧
    (AtSlot off 0x04 → WritesTo s off v
      { s with done := if v.getLsbD 1 then false else s.done, werr := if v.getLsbD 2 then false else s.werr }) ∧
    (AtSlot off 0x08 → ∃ n w p, WritesTo s off v
      { s with pcmd := v, busy := true, done := false, latencyLeft := n, work := w, roundPos := p, draws := s.draws + 1 }) ∧
    (AtSlot off 0x0C → WritesTo s off v { s with din := v }) ∧
    (AtSlot off 0x1C → WritesTo s off v { s with ctrsetLo := v }) ∧
    (AtSlot off 0x20 → WritesTo s off v { s with ctrsetHi := v }) ∧
    (∀ i : Fin 8, AtSlot off (BitVec.ofNat 8 (0x40 + 4 * i.val)) → WritesTo s off v { s with keyIn := s.keyIn.set i v }) ∧
    (∀ i : Fin 2, AtSlot off (BitVec.ofNat 8 (0x60 + 4 * i.val)) → WritesTo s off v { s with nonceIn := s.nonceIn.set i v }) ∧
    (∀ i : Fin 16, AtSlot off (BitVec.ofNat 8 (0xC0 + 4 * i.val)) → WritesTo s off v { s with h := s.h.set i v }) ∧
    (AtSlot off 0x10 → WritesTo s off v s) ∧ (AtSlot off 0x14 → WritesTo s off v s) ∧ (AtSlot off 0x18 → WritesTo s off v s) ∧
    (∀ i : Fin 16, AtSlot off (BitVec.ofNat 8 (0x80 + 4 * i.val)) → WritesTo s off v s) ∧
    (0x24 ≤ off.toNat → off.toNat < 0x40 → WritesTo s off v s) ∧ (0x68 ≤ off.toNat → off.toNat < 0x80 → WritesTo s off v s)

/-- A bank holds the word last written to it at that index, and the words before at the others. -/
def Obligations.BankReadsAfterWrites : Prop :=
  (∀ (x : Words2) (i j : Fin 2) (v : Word), (x.set i v).get j = if j = i then v else x.get j) ∧
  (∀ (x : Words8) (i j : Fin 8) (v : Word), (x.set i v).get j = if j = i then v else x.get j) ∧
  (∀ (x : Words16) (i j : Fin 16) (v : Word), (x.set i v).get j = if j = i then v else x.get j)

/-- Writes while BUSY = 1 (R65): an input register or CMD keeps its value and WERR is set; CTRL and STATUS act as ever; a
write to a read-only or reserved slot has no effect and does not set WERR. -/
def Obligations.BusyWritesAreDropped : Prop :=
  ∀ (s : State) (off : BitVec 8) (v : Word), s.busy = true →
    ((AtSlot off 0x08 ∨ AtSlot off 0x0C ∨ AtSlot off 0x1C ∨ AtSlot off 0x20 ∨ (0x40 ≤ off.toNat ∧ off.toNat < 0x68) ∨
        0xC0 ≤ off.toNat) → WritesTo s off v { s with werr := true }) ∧
    (AtSlot off 0x00 → WritesTo s off v { s with ie := v.getLsbD 0 }) ∧
    (AtSlot off 0x04 → WritesTo s off v
      { s with done := if v.getLsbD 1 then false else s.done, werr := if v.getLsbD 2 then false else s.werr }) ∧
    ((AtSlot off 0x10 ∨ AtSlot off 0x14 ∨ AtSlot off 0x18 ∨ (0x24 ≤ off.toNat ∧ off.toNat < 0x40) ∨
        (0x68 ≤ off.toNat ∧ off.toNat < 0xC0)) → WritesTo s off v s)

/-- A transaction at a reserved offset (0x24 to 0x3C, 0x68 to 0x7C, with any low bits) reads 0 and ignores writes, whether
BUSY is 0 or 1 (R67). -/
def Obligations.ReservedOffsetsReadZeroIgnoreWrites : Prop :=
  ∀ (s : State) (off : BitVec 8) (v : Word),
    (0x24 ≤ off.toNat ∧ off.toNat ≤ 0x3F) ∨ (0x68 ≤ off.toNat ∧ off.toNat ≤ 0x7F) →
    ReadsAs s off 0 ∧ WritesTo s off v s

/-- off[1:0] are ignored: a transaction at off is one at off AND 0xFC, and off[7:2] is the slot number (R61). -/
def Obligations.OffsetLowBitsAreIgnored : Prop :=
  ∀ (s : State) (off : BitVec 8) (v : Word),
    portRead off s = portRead (off &&& 0xFC) s ∧ portWrite off v s = portWrite (off &&& 0xFC) v s ∧
    slotOf off = slotAt (off.toNat / 4) ∧ off.toNat / 4 < 64

/-- Reads while a legal command is pending: a slot that the command's rule writes on success gives a free value (log 4); every
other slot, STATUS included, gives what it gave before. The KEY_IN slots of a pending CLEAR, and illegal words, are log 5. -/
def Obligations.BusyReadsOfResultsAreFree : Prop :=
  ∀ (s : State) (off : BitVec 8) (i : Instr), s.busy = true → decode s.pcmd = .ok i →
    (let ctr := AtSlot off 0x14 ∨ AtSlot off 0x18
     let ks := 0x80 ≤ off.toNat ∧ off.toNat < 0xC0
     let written : Prop :=
      match i with
      | .nop => False
      | .init _ _ => AtSlot off 0x10 ∨ ctr ∨ ks
      | .seek _ => ctr ∨ ks
      | .xor _ => AtSlot off 0x10 ∨ ctr ∨ ks
      | .hash => 0xC0 ≤ off.toNat
      | .clear => (0x0C ≤ off.toNat ∧ off.toNat < 0x24) ∨ (0x40 ≤ off.toNat ∧ off.toNat < 0x68) ∨ 0x80 ≤ off.toNat
     (written → portRead off s = { s with reads := Config.freeRead s.draws :: s.reads, draws := s.draws + 1 }) ∧
     (¬ written → ReadsAs s off (slotValue s (slotOf off))))

/-- No transaction lets the host see the key: two states that differ in KEY and KEY_IN alone give the host the same read
values and the same IRQ at every step that is not a completion. -/
def Obligations.KeyCannotBeReadBack : Prop :=
  ∀ (s : State) (k kin : Words8), (s.busy = false ∨ s.latencyLeft ≠ 0 ∨ s.inputs.head? = some .reset) →
    ∃ t u, step s = .next t ∧ step (withKeys k kin s) = .next u ∧ t.reads = u.reads ∧ irq t = irq u

/-- A step in which the core is idle (no completion is due) performs the host's next input (log 1), whether BUSY is 0 or 1: a
transaction; a WAIT, which reads STATUS once and stays while BUSY = 1; a wait for IRQ; nothing where there is no input. With
no command pending nothing else changes. With one pending the input acts on the busy state: its latency counts down (log 2)
and its internal state and the draw counter move on (log 7), and no other register changes but by that input. -/
def Obligations.IdleStepPerformsTheHostInput : Prop :=
  (∀ (s : State) (rest : List Input), s.busy = false →
    (s.inputs = [] → step s = .next s) ∧
    (s.inputs = .idle :: rest → step s = .next { s with inputs := rest }) ∧
    (∀ off, s.inputs = .read off :: rest → step s = .next { portRead off s with inputs := rest }) ∧
    (∀ off v, s.inputs = .write off v :: rest → step s = .next { portWrite off v s with inputs := rest }) ∧
    (s.inputs = .wait :: rest → step s = .next { s with reads := statusWord s :: s.reads, inputs := rest }) ∧
    (s.inputs = .waitIrq :: rest → step s = .next (if s.done = true ∧ s.ie = true then { s with inputs := rest } else s))) ∧
  (∀ (s : State) (rest : List Input), s.busy = true → s.latencyLeft ≠ 0 →
    ∃ work roundPos, ∀ t : State,
      t = { s with latencyLeft := s.latencyLeft - 1, work := work, roundPos := roundPos, draws := s.draws + 1 } →
      (s.inputs = [] → step s = .next t) ∧
      (s.inputs = .idle :: rest → step s = .next { t with inputs := rest }) ∧
      (∀ off, s.inputs = .read off :: rest → step s = .next { portRead off t with inputs := rest }) ∧
      (∀ off v, s.inputs = .write off v :: rest → step s = .next { portWrite off v t with inputs := rest }) ∧
      (s.inputs = .wait :: rest → step s = .next { t with reads := statusWord s :: s.reads }) ∧
      (s.inputs = .waitIrq :: rest → step s = .next (if s.done = true ∧ s.ie = true then { t with inputs := rest } else t)))

/-! ## Completion (41_control_commands.md R140, 60_exceptions.md) -/

/-- When a pending command's completion is due and no reset comes first, the step is exec of the decoded command. When it
is due is log 2, that reset comes first is log 8. -/
def Obligations.StepRunsTheDecodedCommand : Prop :=
  ∀ (s : State) (i : Instr), s.inputs.head? ≠ some .reset → s.busy = true → s.latencyLeft = 0 → decode s.pcmd = .ok i →
    step s = exec i s

/-- The same of an illegal word: the step is its completion with code 5. -/
def Obligations.StepCompletesAnIllegalWord : Prop :=
  ∀ (s : State) (r : Reject), s.inputs.head? ≠ some .reset → s.busy = true → s.latencyLeft = 0 → decode s.pcmd = .error r →
    step s = .next { s with err := 5, busy := false, done := true }

/-- At the completion of every command, successful or not, ERR holds a defined code (0 to 5), BUSY is 0 and DONE is 1, and IRQ
is 1 exactly if CTRL.IE = 1; CTRL.IE and WERR stay as they were. That PCMD, the working copy and the round position stay too
is the model's choice (log 7), and so is that the model's own fields draws, inputs and reads do (log 4, log 12). -/
def Obligations.EveryCommandCompletes : Prop :=
  ∀ (i : Instr) (s : State), ∃ t, exec i s = .next t ∧ t.err.toNat ≤ 5 ∧ t.busy = false ∧ t.done = true ∧ irq t = s.ie ∧
    t.ie = s.ie ∧ t.werr = s.werr ∧ t.pcmd = s.pcmd ∧ t.work = s.work ∧ t.roundPos = s.roundPos ∧ t.draws = s.draws ∧
    t.inputs = s.inputs ∧ t.reads = s.reads

/-- A command that ends with a code other than 0 writes nothing but ERR, BUSY and DONE, and FSM <- OVERFLOW where an XOR
needs a block after the last one (R183, R184). -/
def Obligations.FailedCommandWritesNoResult : Prop :=
  ∀ (i : Instr) (s t : State), exec i s = .next t → t.err ≠ 0 →
    t = withResult t.err s ∨
    (∃ len, i = .xor len ∧ (s.fsm = .initialized ∨ s.fsm = .generating) ∧ len.toNat > 64 - s.offset.val ∧ s.exh = true ∧
      t.err = 3 ∧ t = withResult 3 { s with fsm := .overflow })

/-- Each command writes only its own registers: KEY and NONCE change by INIT and CLEAR alone, the staging registers and DIN
by CLEAR alone, H by HASH and CLEAR alone, DOUT by INIT, XOR and CLEAR alone, CTR, KS, OFFSET, EXH and FSM by none of NOP
and HASH. -/
def Obligations.CommandsKeepTheOtherRegisters : Prop :=
  ∀ (i : Instr) (s t : State), exec i s = .next t →
    ((i ≠ .clear ∧ ∀ k n, i ≠ .init k n) → t.key = s.key ∧ t.nonce = s.nonce) ∧
    (i ≠ .clear → t.keyIn = s.keyIn ∧ t.nonceIn = s.nonceIn ∧ t.ctrsetLo = s.ctrsetLo ∧ t.ctrsetHi = s.ctrsetHi ∧ t.din = s.din) ∧
    ((i ≠ .clear ∧ i ≠ .hash) → t.h = s.h) ∧
    ((i = .nop ∨ i = .hash ∨ ∃ b, i = .seek b) → t.dout = s.dout) ∧
    ((i = .nop ∨ i = .hash) →
      t.ctr = s.ctr ∧ t.ks = s.ks ∧ t.offset = s.offset ∧ t.exh = s.exh ∧ t.fsm = s.fsm)

/-- Every slot of the port outside the command's result set and STATUS reads after the command as before it: the frame of
all commands through the model's read of one slot. -/
def Obligations.OtherSlotsReadAsBefore : Prop :=
  ∀ (i : Instr) (s t : State) (off : BitVec 8), exec i s = .next t → slotOf off ≠ .status →
    resultSlot (encode i) (slotOf off) = false → slotValue t (slotOf off) = slotValue s (slotOf off)

/-! ## The commands (41_control_commands.md, 42_keystream_commands.md) -/

/-- NOP (R144): the word 0; any other word with OP 0 is IllegalCommand; NOP completes with ERR = 0 in every state and changes
nothing else; from the reset state STATUS is then 0x00400002. -/
def Obligations.NopChangesNothingElse : Prop :=
  encode .nop = 0 ∧
  (∀ s : State, s.pcmd.extractLsb' 0 8 = 0 → s.pcmd ≠ 0 →
    coreStep s = .next { s with err := 5, busy := false, done := true, latencyLeft := 0 }) ∧
  (∀ s : State, exec .nop s = .next { s with err := 0, busy := false, done := true, latencyLeft := 0 }) ∧
  (∃ t, exec .nop State.reset = .next t ∧ statusWord t = 0x00400002)

/-- A successful INIT builds a new instance, in every FSM state: KEY and NONCE from the staging registers, CTR 0, EXH 0,
OFFSET 64, KS and DOUT zeroed, FSM INITIALIZED, and everything else as it was (of PCMD and the internal state this is log 7). -/
def Obligations.InitBuildsANewInstance : Prop :=
  ∀ s : State, exec (.init 32 8) s = .next
    { s with
      key := s.keyIn, nonce := s.nonceIn, ctr := 0, exh := false, offset := 64, ks := Words16.zero, dout := 0,
      fsm := .initialized, err := 0, busy := false, done := true, latencyLeft := 0 }

/-- INIT's length errors (R181, R182), the key length first: nothing changes but ERR, DONE and BUSY. -/
def Obligations.InitRefusesOtherLengths : Prop :=
  ∀ (klen nlen : BitVec 8) (s : State),
    (klen.toNat ≠ 32 → exec (.init klen nlen) s = .next { s with err := 1, busy := false, done := true, latencyLeft := 0 }) ∧
    (klen.toNat = 32 → nlen.toNat ≠ 8 →
      exec (.init klen nlen) s = .next { s with err := 2, busy := false, done := true, latencyLeft := 0 })

/-- SEEK in INITIALIZED (R142): CTR <- CTRSET; with BOFF ≠ 0 the block of that counter goes to KS, CTR advances, EXH is set if
it wrapped, OFFSET is BOFF and FSM GENERATING. Everything else is as it was (of PCMD and the internal state this is log 7). -/
def Obligations.SeekSetsTheStreamPosition : Prop :=
  ∀ (boff : BitVec 6) (s : State), s.fsm = .initialized →
    (boff = 0 → exec (.seek boff) s = .next
      { s with ctr := s.ctrsetHi ++ s.ctrsetLo, exh := false, offset := 64, err := 0, busy := false, done := true, latencyLeft := 0 }) ∧
    (boff ≠ 0 → ∃ t, t.offset.val = boff.toNat ∧ exec (.seek boff) s = .next t ∧ t =
      { s with
        ks := block s.key s.nonce (s.ctrsetHi ++ s.ctrsetLo), ctr := (s.ctrsetHi ++ s.ctrsetLo) + 1,
        exh := decide (s.ctrsetLo = 0xFFFFFFFF ∧ s.ctrsetHi = 0xFFFFFFFF), offset := t.offset, fsm := .generating,
        err := 0, busy := false, done := true, latencyLeft := 0 })

/-- SEEK elsewhere: InvalidState in UNINIT and GENERATING, CounterOverflow in OVERFLOW, and nothing else changes. -/
def Obligations.SeekRefusedOutsideInitialized : Prop :=
  ∀ (boff : BitVec 6) (s : State),
    (s.fsm = .uninit ∨ s.fsm = .generating → exec (.seek boff) s = .next (withResult 4 s)) ∧
    (s.fsm = .overflow → exec (.seek boff) s = .next (withResult 3 s))

/-- CLEAR: in every FSM state all data registers are zeroed, OFFSET is 64 and FSM UNINIT; CTRL.IE and WERR are kept;
with WERR = 0 STATUS is then 0x00400002. No other command returns the instance to UNINIT, and no step does but a reset or a
due completion of CLEAR: no illegal word and no transaction. When a completion is due is log 2; that PCMD and the internal
state stay as they were at a completion is log 7. -/
def Obligations.ClearZeroizes : Prop :=
  encode .clear = 0x00000005 ∧
  (∀ s : State, ∃ t, exec .clear s = .next t ∧ t =
    { s with
      key := ⟨0, 0, 0, 0, 0, 0, 0, 0⟩, nonce := ⟨0, 0⟩, keyIn := ⟨0, 0, 0, 0, 0, 0, 0, 0⟩, nonceIn := ⟨0, 0⟩,
      ctrsetLo := 0, ctrsetHi := 0, ctr := 0, exh := false, offset := 64,
      ks := ⟨0, 0, 0, 0, 0, 0, 0, 0, 0, 0, 0, 0, 0, 0, 0, 0⟩, din := 0, dout := 0,
      h := ⟨0, 0, 0, 0, 0, 0, 0, 0, 0, 0, 0, 0, 0, 0, 0, 0⟩, fsm := .uninit,
      err := 0, busy := false, done := true, latencyLeft := 0 } ∧
    (s.werr = false → statusWord t = 0x00400002)) ∧
  (∀ (i : Instr) (s t : State), s.fsm ≠ .uninit → exec i s = .next t → t.fsm = .uninit → i = .clear) ∧
  (∀ s t : State, s.fsm ≠ .uninit → step s = .next t → t.fsm = .uninit →
    s.inputs.head? = some .reset ∨ (s.busy = true ∧ s.latencyLeft = 0 ∧ decode s.pcmd = .ok .clear))

/-- HASH: H <- Core(H) in every FSM state, with ERR = 0, and nothing else changes (of PCMD and the internal state this is
log 7); H = 0 stays 0, H loaded with a layout gives its block, and the example H = (0, 1, ..., 15). -/
def Obligations.HashAppliesTheCore : Prop :=
  encode .hash = 0x00000004 ∧
  (∀ s : State, exec .hash s = .next
    { s with h := coreFunction s.h, err := 0, busy := false, done := true, latencyLeft := 0 }) ∧
  (∀ (s : State) key nonce c, s.h = layout key nonce c →
    ∃ t, exec .hash s = .next t ∧ t.h = block key nonce c) ∧
  coreFunction Words16.zero = Words16.zero ∧
  coreFunction ⟨0, 1, 2, 3, 4, 5, 6, 7, 8, 9, 10, 11, 12, 13, 14, 15⟩ =
    ⟨0xE1A0EBE0, 0x06032A02, 0x1EC19924, 0x91FFB36E, 0x83068335, 0xA7C06E2C, 0x75B43867, 0xCCF8517E,
     0xF61BA820, 0xAB1B8972, 0xEC9ED7F6, 0x478636B9, 0x745DD6AD, 0x8BBE722D, 0xA1CC9BDF, 0x5FC70CF0⟩

/-- XOR's errors in the order of R188: an XOR term with LEN above 4, which the decoder never yields, ends as the illegal word
would, with IllegalCommand (the model's choice, log 10); InvalidState in UNINIT;
CounterOverflow in OVERFLOW; CounterOverflow with FSM <- OVERFLOW where the buffer has too few bytes and EXH = 1. Nothing else
changes. -/
def Obligations.XorErrorsInOrder : Prop :=
  ∀ (len : BitVec 3) (s : State),
    (len.toNat > 4 → exec (.xor len) s = .next (withResult 5 s)) ∧
    (len.toNat ≤ 4 → s.fsm = .uninit → exec (.xor len) s = .next (withResult 4 s)) ∧
    (len.toNat ≤ 4 → s.fsm = .overflow → exec (.xor len) s = .next (withResult 3 s)) ∧
    (len.toNat ≤ 4 → (s.fsm = .initialized ∨ s.fsm = .generating) → len.toNat > 64 - s.offset.val → s.exh = true →
      exec (.xor len) s = .next (withResult 3 { s with fsm := .overflow }))

/-- XOR's result (R161): result byte j is DIN byte j XOR the next keystream byte, from KS while it has bytes and then from
the block of CTR; the bytes from LEN on are 0. The position moves by LEN; a block is generated exactly if the buffer has fewer
than LEN bytes; nothing else changes (of PCMD and the internal state this is log 7). -/
def Obligations.XorCombinesDataWithKeystream : Prop :=
  ∀ (len : BitVec 3) (s : State), len.toNat ≤ 4 → (s.fsm = .initialized ∨ s.fsm = .generating) →
    ¬ (len.toNat > 64 - s.offset.val ∧ s.exh = true) →
    ∃ t, exec (.xor len) s = .next t ∧
      (∀ j, j < len.toNat → t.dout.extractLsb' (8 * j) 8 = s.din.extractLsb' (8 * j) 8 ^^^
        (if s.offset.val + j < 64 then blockByte s.ks (Fin.ofNat 64 (s.offset.val + j))
         else blockByte (block s.key s.nonce s.ctr) (Fin.ofNat 64 (s.offset.val + j - 64)))) ∧
      (∀ j, len.toNat ≤ j → j < 4 → t.dout.extractLsb' (8 * j) 8 = 0) ∧
      (s.offset.val + len.toNat ≤ 64 → t.offset.val = s.offset.val + len.toNat ∧
        t = { withResult 0 s with dout := t.dout, offset := t.offset }) ∧
      (s.offset.val + len.toNat > 64 → t.offset.val = s.offset.val + len.toNat - 64 ∧
        t = { withResult 0 s with
          dout := t.dout, offset := t.offset, ks := block s.key s.nonce s.ctr, ctr := s.ctr + 1,
          exh := decide (s.ctr = 0xFFFFFFFFFFFFFFFF), fsm := .generating })

/-- The FSM transition table, row by row: the commands by exec, an illegal word by the completion step, reset by its
effect. In the two INITIALIZED cells that the table says cannot occur (LEN >= 1 with bytes in the buffer, and EXH = 1) the outcome
is that of XOR's pseudocode as it stands (log 17). -/
def Obligations.FsmTransitionTable : Prop :=
  (∀ s : State, EndsIn (exec (.init 32 8) s) .initialized 0) ∧
  (∀ (s : State) (k n : BitVec 8), k.toNat ≠ 32 → EndsIn (exec (.init k n) s) s.fsm 1) ∧
  (∀ (s : State) (n : BitVec 8), n.toNat ≠ 8 → EndsIn (exec (.init 32 n) s) s.fsm 2) ∧
  (∀ (s : State) (b : BitVec 6),
    (s.fsm = .uninit → EndsIn (exec (.seek b) s) .uninit 4) ∧
    (s.fsm = .initialized → b = 0 → EndsIn (exec (.seek b) s) .initialized 0) ∧
    (s.fsm = .initialized → b ≠ 0 → EndsIn (exec (.seek b) s) .generating 0) ∧
    (s.fsm = .generating → EndsIn (exec (.seek b) s) .generating 4) ∧
    (s.fsm = .overflow → EndsIn (exec (.seek b) s) .overflow 3)) ∧
  (∀ (s : State) (len : BitVec 3), len.toNat ≤ 4 →
    (s.fsm = .uninit → EndsIn (exec (.xor len) s) .uninit 4) ∧
    (s.fsm = .overflow → EndsIn (exec (.xor len) s) .overflow 3) ∧
    (s.fsm = .initialized ∨ s.fsm = .generating →
      (len.toNat ≤ 64 - s.offset.val → EndsIn (exec (.xor len) s) s.fsm 0) ∧
      (len.toNat > 64 - s.offset.val → s.exh = false → EndsIn (exec (.xor len) s) .generating 0) ∧
      (len.toNat > 64 - s.offset.val → s.exh = true → EndsIn (exec (.xor len) s) .overflow 3))) ∧
  (∀ s : State, EndsIn (exec .hash s) s.fsm 0 ∧ EndsIn (exec .nop s) s.fsm 0 ∧ EndsIn (exec .clear s) .uninit 0) ∧
  (∀ (s : State) (r : Reject), decode s.pcmd = .error r → EndsIn (coreStep s) s.fsm 5) ∧
  (∀ s : State, (applyReset s).fsm = .uninit ∧ (applyReset s).err = 0)

/-- Where CounterOverflow (R184) and InvalidState (R185) are raised, and nowhere else; the first case of CounterOverflow sets
FSM <- OVERFLOW. -/
def Obligations.StateErrorsAreRaisedExactlyWhere : Prop :=
  ∀ (i : Instr) (s t : State), exec i s = .next t →
    (let needsBlockAfterLast :=
      ∃ len, i = .xor len ∧ len.toNat ≤ 4 ∧ (s.fsm = .initialized ∨ s.fsm = .generating) ∧ len.toNat > 64 - s.offset.val ∧ s.exh = true
     let isXor := ∃ len, i = .xor len ∧ len.toNat ≤ 4
     let isSeek := ∃ b, i = .seek b
     (t.err = 3 ↔ needsBlockAfterLast ∨ (s.fsm = .overflow ∧ (isXor ∨ isSeek))) ∧
     (needsBlockAfterLast → t.fsm = .overflow) ∧
     (t.err = 4 ↔ (s.fsm = .uninit ∧ (isXor ∨ isSeek)) ∨ (s.fsm = .generating ∧ isSeek)))

/-! ## The keystream (42_keystream_commands.md section 4) -/

/-- One XOR on the stream: from a streaming state that meets the invariant, LEN bytes no more than remain come out in order
from the position on, XORed with the DIN bytes, and the position moves by LEN. -/
def Obligations.XorFollowsTheKeystream : Prop :=
  ∀ (len : BitVec 3) (s : State), BlockInv s → Streaming s → len.toNat ≤ 4 → len.toNat ≤ remaining s →
    ∃ t, exec (.xor len) s = .next t ∧ t.err = 0 ∧ Streaming t ∧ t.key = s.key ∧ t.nonce = s.nonce ∧
      streamPos t = streamPos s + len.toNat ∧
      ∀ j, j < len.toNat →
        wordByte t.dout j = wordByte s.din j ^^^ keystreamByte s.key s.nonce (streamPos s + j)

/-- Remaining capacity: a streaming XOR succeeds exactly if LEN bytes remain, and then that many fewer remain; otherwise it
is CounterOverflow. Position and capacity always add up to the whole keystream of 2^64 blocks. -/
def Obligations.RemainingCapacityCountsDown : Prop :=
  ∀ (len : BitVec 3) (s : State), BlockInv s → Streaming s → len.toNat ≤ 4 →
    streamPos s + remaining s = 2 ^ 70 ∧
    (len.toNat ≤ remaining s → ∃ t, exec (.xor len) s = .next t ∧ t.err = 0 ∧ remaining t = remaining s - len.toNat) ∧
    (remaining s < len.toNat → exec (.xor len) s = .next (withResult 3 { s with fsm := .overflow }))

/-- Streaming consistency: any split of at most the remaining bytes into XOR requests succeeds and returns the keystream
from the position on, XORed with the message bytes, whatever the split. -/
def Obligations.StreamingIsConsistentForEverySplit : Prop :=
  ∀ (rs : List (BitVec 3 × Word)) (s : State), BlockInv s → Streaming s → (∀ r ∈ rs, r.1.toNat ≤ 4) →
    requestLength rs ≤ remaining s →
    ∃ ws t, xorRun rs s = some (ws, t) ∧ ws.length = rs.length ∧ streamPos t = streamPos s + requestLength rs ∧
      requestBytes ((rs.map Prod.fst).zip ws) =
        (requestBytes rs).mapIdx fun n b => b ^^^ keystreamByte s.key s.nonce (streamPos s + n)

/-- Involution: two instances with the same key and nonce at the same position, the second fed the first's results with the
same lengths, give back the first's message bytes. -/
def Obligations.DecryptionUndoesEncryption : Prop :=
  ∀ (rs : List (BitVec 3 × Word)) (s u t : State) (ws : List Word), BlockInv s → BlockInv u → Streaming s → Streaming u →
    u.key = s.key → u.nonce = s.nonce → streamPos u = streamPos s → (∀ r ∈ rs, r.1.toNat ≤ 4) →
    xorRun rs s = some (ws, t) →
    ∃ ds v, xorRun ((rs.map Prod.fst).zip ws) u = some (ds, v) ∧
      requestBytes ((rs.map Prod.fst).zip ds) = requestBytes rs

/-! ## Whole-machine rules -/

/-- The block's invariant holds at reset. -/
def Obligations.ResetMeetsTheInvariant : Prop := BlockInv State.reset

/-- Every step keeps the invariant: the instance registers fit the FSM state, the buffer holds the block before CTR, BUSY
and DONE are never up together, and ERR is a defined code. -/
def Obligations.EveryStepKeepsTheInvariant : Prop :=
  ∀ s t : State, BlockInv s → step s = .next t → BlockInv t

/-- The step answers a next state from every state: no transaction errors, no trap, no stop. -/
def Obligations.NoStepStops : Prop := ∀ s : State, ∃ t, step s = .next t

/-- KEY changes only by reset, by a successful INIT, which copies KEY_IN, and by CLEAR, which zeroes it. -/
def Obligations.KeyIsImmutableWithinAnInstance : Prop :=
  ∀ s t : State, step s = .next t → t.key ≠ s.key →
    s.inputs.head? = some .reset ∨
    (s.busy = true ∧ s.latencyLeft = 0 ∧
      ((decode s.pcmd = .ok (.init 32 8) ∧ t.key = s.keyIn) ∨ (decode s.pcmd = .ok .clear ∧ t.key = Words8.zero)))

/-- What writes CTR: reset, INIT and CLEAR set it to 0, SEEK sets it to CTRSET or one more, an XOR adds one; nothing else. -/
def Obligations.CounterHasFiveWriters : Prop :=
  ∀ s t : State, step s = .next t → t.ctr ≠ s.ctr →
    (s.inputs.head? = some .reset ∧ t.ctr = 0) ∨
    (s.busy = true ∧ s.latencyLeft = 0 ∧
      ((decode s.pcmd = .ok (.init 32 8) ∧ t.ctr = 0) ∨ (decode s.pcmd = .ok .clear ∧ t.ctr = 0) ∨
       (∃ b, decode s.pcmd = .ok (.seek b) ∧
         t.ctr = (if b = 0 then s.ctrsetHi ++ s.ctrsetLo else (s.ctrsetHi ++ s.ctrsetLo) + 1)) ∨
       (∃ len, decode s.pcmd = .ok (.xor len) ∧ t.ctr = s.ctr + 1)))

/-- OVERFLOW is terminal for the instance: only reset, a successful INIT or CLEAR leaves it. -/
def Obligations.OverflowIsLeftOnlyByInitClearReset : Prop :=
  ∀ s t : State, s.fsm = .overflow → step s = .next t → t.fsm ≠ .overflow →
    s.inputs.head? = some .reset ∨
    (s.busy = true ∧ s.latencyLeft = 0 ∧ (decode s.pcmd = .ok (.init 32 8) ∨ decode s.pcmd = .ok .clear))

/-- No counter value is used twice: while EXH = 1 no command that is not refused by its FSM state generates a block. From a
state of the invariant with EXH = 1, a command leaves KS as it was, or zeroes it (INIT, CLEAR). -/
def Obligations.NoBlockAfterExhaustion : Prop :=
  ∀ (i : Instr) (s : State), BlockInv s → s.exh = true →
    ∃ t, exec i s = .next t ∧
      ((t.ks = s.ks ∧ t.ctr = s.ctr ∧ t.exh = true) ∨
       ((i = .init 32 8 ∨ i = .clear) ∧ t.ks = Words16.zero ∧ t.ctr = 0 ∧ t.exh = false))

/-- WERR is set only by a dropped write, and cleared only by a STATUS write with bit 2 set or by reset (R38). -/
def Obligations.WerrRecordsDroppedWrites : Prop :=
  ∀ s t : State, step s = .next t →
    (s.werr = false → t.werr = true →
      s.busy = true ∧ ∃ off v rest, s.inputs = .write off v :: rest ∧ (slotOf off).isFrozen = true) ∧
    (s.werr = true → t.werr = false →
      s.inputs.head? = some .reset ∨
      ∃ off v rest, s.inputs = .write off v :: rest ∧ slotOf off = .status ∧ v.getLsbD 2 = true)

/-- ERR is written only by a completion or reset (R39). -/
def Obligations.ErrIsWrittenOnlyByCompletion : Prop :=
  ∀ s t : State, step s = .next t → t.err ≠ s.err →
    s.inputs.head? = some .reset ∨ (s.busy = true ∧ s.latencyLeft = 0)

/-- The IRQ output: DONE AND CTRL.IE; writing 1 to STATUS bit 1 and an accepted CMD write both drop it. -/
def Obligations.AcknowledgeDropsTheInterrupt : Prop :=
  (∀ s : State, irq s = true ↔ s.done = true ∧ s.ie = true) ∧
  (∀ (s : State) (off : BitVec 8) (v : Word), AtSlot off 0x04 → v.getLsbD 1 = true →
    (portWrite off v s).done = false ∧ irq (portWrite off v s) = false) ∧
  (∀ (s : State) (off : BitVec 8) (v : Word), AtSlot off 0x08 → s.busy = false →
    (portWrite off v s).done = false ∧ irq (portWrite off v s) = false)

/-- While a command is pending and not yet due (log 2), and no reset comes, no register that a command reads or writes changes, and
the command stays the pending one. -/
def Obligations.PendingCommandFreezesItsRegisters : Prop :=
  ∀ s t : State, s.busy = true → s.latencyLeft ≠ 0 → s.inputs.head? ≠ some .reset → step s = .next t →
    t.busy = true ∧ t.pcmd = s.pcmd ∧ t.latencyLeft = s.latencyLeft - 1 ∧ t.err = s.err ∧
    t.key = s.key ∧ t.nonce = s.nonce ∧ t.ctr = s.ctr ∧ t.exh = s.exh ∧ t.fsm = s.fsm ∧ t.ks = s.ks ∧ t.offset = s.offset ∧
    t.keyIn = s.keyIn ∧ t.nonceIn = s.nonceIn ∧ t.ctrsetLo = s.ctrsetLo ∧ t.ctrsetHi = s.ctrsetHi ∧ t.din = s.din ∧
    t.dout = s.dout ∧ t.h = s.h

/-- A pending command completes (log 2): with no reset among the inputs of the time, latencyLeft + 1 steps reach its completion,
and its results are those it gives on the registers as they stand now, whatever the host does meanwhile. -/
def Obligations.PendingCommandCompletes : Prop :=
  ∀ s : State, s.busy = true → (∀ x ∈ s.inputs.take (s.latencyLeft + 1), x ≠ .reset) →
    ∃ t u, Host.Core.run Sys2Proof.core (s.latencyLeft + 1) s = .next t ∧ t.busy = false ∧ t.done = true ∧
      coreStep s = .next u ∧ t.err = u.err ∧ t.fsm = u.fsm ∧ t.key = u.key ∧ t.nonce = u.nonce ∧ t.ctr = u.ctr ∧
      t.exh = u.exh ∧ t.ks = u.ks ∧ t.offset = u.offset ∧ t.keyIn = u.keyIn ∧ t.nonceIn = u.nonceIn ∧
      t.ctrsetLo = u.ctrsetLo ∧ t.ctrsetHi = u.ctrsetHi ∧ t.din = u.din ∧ t.dout = u.dout ∧ t.h = u.h

/-- Timing, errors and IRQ do not depend on secrets (log 2): two states that agree on everything public step to states that agree on
everything public. -/
def Obligations.TimingAndErrorsHideSecrets : Prop :=
  ∀ s t : State, PublicEq s t → ∃ s' t', step s = .next s' ∧ step t = .next t' ∧ PublicEq s' t' ∧ irq s' = irq t'

/-- The state after reset has the values of R48; STATUS reads 0x00400000 and IRQ is 0. PCMD, the working copy and the round
position are unspecified there and nothing is said of them. -/
def Obligations.ResetValues : Prop :=
  (let s := State.reset
   s.key = ⟨0, 0, 0, 0, 0, 0, 0, 0⟩ ∧ s.nonce = ⟨0, 0⟩ ∧ s.ctr = 0 ∧ s.exh = false ∧ s.fsm.code = 0 ∧
   s.ks = ⟨0, 0, 0, 0, 0, 0, 0, 0, 0, 0, 0, 0, 0, 0, 0, 0⟩ ∧ s.offset = 64 ∧ s.keyIn = ⟨0, 0, 0, 0, 0, 0, 0, 0⟩ ∧
   s.nonceIn = ⟨0, 0⟩ ∧ s.ctrsetLo = 0 ∧ s.ctrsetHi = 0 ∧ s.din = 0 ∧ s.dout = 0 ∧
   s.h = ⟨0, 0, 0, 0, 0, 0, 0, 0, 0, 0, 0, 0, 0, 0, 0, 0⟩ ∧ s.busy = false ∧ s.done = false ∧ s.werr = false ∧ s.err = 0 ∧
   s.ie = false ∧ irq s = false ∧ statusWord s = 0x00400000)

/-- A reset event comes before everything (log 8): whatever is pending or due, every register takes its reset value, the
pending command is gone with no effect and no report, and IRQ is 0. The host's record stays (log 12). -/
def Obligations.ResetAbortsAndResetsEverything : Prop :=
  ∀ (s : State) (rest : List Input), s.inputs = .reset :: rest →
    ∃ t, step s = .next t ∧ t =
      { State.reset with
        pcmd := t.pcmd, work := t.work, roundPos := t.roundPos, draws := t.draws, inputs := rest, reads := s.reads } ∧
      irq t = false

/-- LOADKEY and LOADNONCE put the key's and the nonce's bytes little-endian into the staging registers: the writes they expand
to, made one a step (log 1) with no command pending, leave word i with byte 4i in its low byte, and nothing else
changed. -/
def Obligations.LoadedKeyIsLittleEndian : Prop :=
  ∀ (s : State) (k : Fin 32 → Byte) (n : Fin 8 → Byte) (rest : List Input), s.busy = false →
    s.inputs = hostLOADKEY k ++ hostLOADNONCE n ++ rest →
    ∃ t, Host.Core.run Sys2Proof.core 10 s = .next t ∧
      t = { s with keyIn := t.keyIn, nonceIn := t.nonceIn, inputs := rest } ∧
      (∀ (i : Fin 8) (j : Fin 4), (t.keyIn.get i).extractLsb' (8 * j.val) 8 = k ⟨4 * i.val + j.val, by omega⟩) ∧
      (∀ (i : Fin 2) (j : Fin 4), (t.nonceIn.get i).extractLsb' (8 * j.val) 8 = n ⟨4 * i.val + j.val, by omega⟩)
end

