-- ==== Sys2Proof/Laws/Flags.lean ====
section
/-! SUPPORT. The STATUS word as a number, and its fields (10_state.md R41). -/

namespace Sys2Proof.Machine

theorem toNat_append_eq {n m : Nat} (x : BitVec n) (y : BitVec m) :
    (x ++ y).toNat = x.toNat * 2 ^ m + y.toNat := by
  rw [BitVec.toNat_append, ← Nat.shiftLeft_add_eq_or_of_lt y.isLt, Nat.shiftLeft_eq]

theorem bit_toNat (b : Bool) : (bit b).toNat = b.toNat := by cases b <;> rfl

/-- STATUS is the sum of its fields at their bit places. -/
theorem statusWord_toNat (s : State) :
    (statusWord s).toNat =
      s.offset.val * 65536 + s.err.toNat * 256 + s.fsm.code.toNat * 16 + s.exh.toNat * 8 + s.werr.toNat * 4 +
        s.done.toNat * 2 + s.busy.toNat := by
  have ho : (BitVec.ofNat 7 s.offset.val).toNat = s.offset.val := by
    have := s.offset.isLt
    rw [BitVec.toNat_ofNat]; omega
  have h0 : ∀ n, (0 : BitVec n).toNat = 0 := fun n => by simp
  simp only [statusWord, toNat_append_eq, ho, h0, bit_toNat]
  omega

theorem statusWord_busy (s : State) : (statusWord s).getLsbD 0 = s.busy := by
  have h := statusWord_toNat s
  rw [BitVec.getLsbD, Nat.testBit_zero, h]
  cases s.busy <;> simp <;> omega

end Sys2Proof.Machine
end

