-- ==== Sys2Proof/Laws/Encoding.lean ====
section
/-! SUPPORT. The command word as its four fields, and the rows of the opcode map in terms of them (30_encoding.md R91, R94). -/

namespace Sys2Proof

open Sys2Proof.Machine

theorem assembleFields_toNat (z b a op : BitVec 8) :
    (assembleFields z b a op).toNat = z.toNat * 16777216 + b.toNat * 65536 + a.toNat * 256 + op.toNat := by
  simp only [assembleFields, toNat_append_eq]
  omega

@[simp] theorem fieldOp_assembleFields (z b a op : BitVec 8) : fieldOp (assembleFields z b a op) = op := by
  apply BitVec.eq_of_toNat_eq
  have h1 := op.isLt
  simp only [fieldOp, BitVec.extractLsb'_toNat, Nat.shiftRight_eq_div_pow, assembleFields_toNat]
  omega

@[simp] theorem fieldA_assembleFields (z b a op : BitVec 8) : fieldA (assembleFields z b a op) = a := by
  apply BitVec.eq_of_toNat_eq
  have h1 := op.isLt
  have h2 := a.isLt
  simp only [fieldA, BitVec.extractLsb'_toNat, Nat.shiftRight_eq_div_pow, assembleFields_toNat]
  omega

@[simp] theorem fieldB_assembleFields (z b a op : BitVec 8) : fieldB (assembleFields z b a op) = b := by
  apply BitVec.eq_of_toNat_eq
  have h1 := op.isLt
  have h2 := a.isLt
  have h3 := b.isLt
  simp only [fieldB, BitVec.extractLsb'_toNat, Nat.shiftRight_eq_div_pow, assembleFields_toNat]
  omega

@[simp] theorem fieldZ_assembleFields (z b a op : BitVec 8) : fieldZ (assembleFields z b a op) = z := by
  apply BitVec.eq_of_toNat_eq
  have h1 := op.isLt
  have h2 := a.isLt
  have h3 := b.isLt
  have h4 := z.isLt
  simp only [fieldZ, BitVec.extractLsb'_toNat, Nat.shiftRight_eq_div_pow, assembleFields_toNat]
  omega

/-- A word is its four fields. -/
theorem assembleFields_fields (w : Word) : assembleFields (fieldZ w) (fieldB w) (fieldA w) (fieldOp w) = w := by
  apply BitVec.eq_of_toNat_eq
  have h := w.isLt
  rw [assembleFields_toNat]
  simp only [fieldOp, fieldA, fieldB, fieldZ, BitVec.extractLsb'_toNat, Nat.shiftRight_eq_div_pow]
  omega

/-- Two words are equal if their fields are. -/
theorem word_eq_iff_fields (v w : Word) :
    v = w ↔ fieldZ v = fieldZ w ∧ fieldB v = fieldB w ∧ fieldA v = fieldA w ∧ fieldOp v = fieldOp w := by
  constructor
  · rintro rfl; exact ⟨rfl, rfl, rfl, rfl⟩
  · rintro ⟨h1, h2, h3, h4⟩
    rw [← assembleFields_fields v, ← assembleFields_fields w, h1, h2, h3, h4]

theorem extract_and (v w : Word) (i n : Nat) :
    (v &&& w).extractLsb' i n = v.extractLsb' i n &&& w.extractLsb' i n := by
  apply BitVec.eq_of_getLsbD_eq
  intro k hk
  simp only [BitVec.getLsbD_extractLsb', BitVec.getLsbD_and, hk, decide_true, Bool.true_and]

/-- A row selects a word field by field. -/
theorem Row.selects_iff (r : Row) (w : Word) :
    r.selects w = true ↔
      fieldZ w &&& fieldZ r.mask = fieldZ r.pattern ∧ fieldB w &&& fieldB r.mask = fieldB r.pattern ∧
      fieldA w &&& fieldA r.mask = fieldA r.pattern ∧ fieldOp w &&& fieldOp r.mask = fieldOp r.pattern := by
  simp only [Row.selects, beq_iff_eq]
  rw [word_eq_iff_fields]
  simp only [fieldZ, fieldB, fieldA, fieldOp, extract_and]

theorem byte_and_ff (x : BitVec 8) : x &&& 0xFF = x := by revert x; decide

theorem byte_and_00 (x : BitVec 8) : x &&& 0 = 0 := by revert x; decide

theorem selects_nop_iff (w : Word) :
    Row.nop.selects w = true ↔ fieldZ w = 0 ∧ fieldB w = 0 ∧ fieldA w = 0 ∧ fieldOp w = 0 := by
  rw [Row.selects_iff]
  show _ &&& 0xFF = 0 ∧ _ &&& 0xFF = 0 ∧ _ &&& 0xFF = 0 ∧ _ &&& 0xFF = 0 ↔ _
  simp only [byte_and_ff]

theorem selects_init_iff (w : Word) : Row.init.selects w = true ↔ fieldZ w = 0 ∧ fieldOp w = 1 := by
  rw [Row.selects_iff]
  show _ &&& 0xFF = 0 ∧ _ &&& 0 = 0 ∧ _ &&& 0 = 0 ∧ _ &&& 0xFF = 1 ↔ _
  simp only [byte_and_ff, byte_and_00, true_and]

theorem selects_seek_iff (w : Word) :
    Row.seek.selects w = true ↔ fieldZ w = 0 ∧ fieldB w = 0 ∧ fieldA w &&& 0xC0 = 0 ∧ fieldOp w = 2 := by
  rw [Row.selects_iff]
  show _ &&& 0xFF = 0 ∧ _ &&& 0xFF = 0 ∧ _ &&& 0xC0 = 0 ∧ _ &&& 0xFF = 2 ↔ _
  simp only [byte_and_ff]

theorem selects_xor_iff (w : Word) :
    Row.xor.selects w = true ↔ fieldZ w = 0 ∧ fieldB w = 0 ∧ fieldA w &&& 0xF8 = 0 ∧ fieldOp w = 3 := by
  rw [Row.selects_iff]
  show _ &&& 0xFF = 0 ∧ _ &&& 0xFF = 0 ∧ _ &&& 0xF8 = 0 ∧ _ &&& 0xFF = 3 ↔ _
  simp only [byte_and_ff]

theorem selects_hash_iff (w : Word) :
    Row.hash.selects w = true ↔ fieldZ w = 0 ∧ fieldB w = 0 ∧ fieldA w = 0 ∧ fieldOp w = 4 := by
  rw [Row.selects_iff]
  show _ &&& 0xFF = 0 ∧ _ &&& 0xFF = 0 ∧ _ &&& 0xFF = 0 ∧ _ &&& 0xFF = 4 ↔ _
  simp only [byte_and_ff]

theorem selects_clear_iff (w : Word) :
    Row.clear.selects w = true ↔ fieldZ w = 0 ∧ fieldB w = 0 ∧ fieldA w = 0 ∧ fieldOp w = 5 := by
  rw [Row.selects_iff]
  show _ &&& 0xFF = 0 ∧ _ &&& 0xFF = 0 ∧ _ &&& 0xFF = 0 ∧ _ &&& 0xFF = 5 ↔ _
  simp only [byte_and_ff]

/-- BOFF and LEN are the low bits of A. -/
theorem fieldBoff_eq (w : Word) : fieldBoff w = (fieldA w).extractLsb' 0 6 := by
  apply BitVec.eq_of_toNat_eq
  simp only [fieldBoff, fieldA, BitVec.extractLsb'_toNat, Nat.shiftRight_eq_div_pow]
  omega

theorem fieldLen_eq (w : Word) : fieldLen w = (fieldA w).extractLsb' 0 3 := by
  apply BitVec.eq_of_toNat_eq
  simp only [fieldLen, fieldA, BitVec.extractLsb'_toNat, Nat.shiftRight_eq_div_pow]
  omega

/-- A with A[7:6] = 0 is BOFF, and A with A[7:3] = 0 is LEN. -/
theorem byte_of_boff (a : BitVec 8) (h : a &&& 0xC0 = 0) : (0 : BitVec 2) ++ a.extractLsb' 0 6 = a := by
  revert a; decide

theorem byte_of_len (a : BitVec 8) (h : a &&& 0xF8 = 0) : (0 : BitVec 5) ++ a.extractLsb' 0 3 = a := by
  revert a; decide

/-- What the decoder answers, by the fields of the word: the six commands, else an error. -/
theorem decode_cases (w : Word) :
    (w = 0 ∧ decode w = .ok .nop) ∨
    (fieldZ w = 0 ∧ fieldOp w = 1 ∧ decode w = .ok (.init (fieldA w) (fieldB w))) ∨
    (fieldZ w = 0 ∧ fieldB w = 0 ∧ fieldA w &&& 0xC0 = 0 ∧ fieldOp w = 2 ∧ decode w = .ok (.seek (fieldBoff w))) ∨
    (fieldZ w = 0 ∧ fieldB w = 0 ∧ fieldA w &&& 0xF8 = 0 ∧ fieldOp w = 3 ∧ (fieldLen w).toNat ≤ 4 ∧
      decode w = .ok (.xor (fieldLen w))) ∨
    (w = 4 ∧ decode w = .ok .hash) ∨ (w = 5 ∧ decode w = .ok .clear) ∨
    (∃ r, decode w = .error r ∧ Row.nop.selects w = false ∧ Row.init.selects w = false ∧ Row.seek.selects w = false ∧
      (Row.xor.selects w = true → 4 < (fieldLen w).toNat) ∧ Row.hash.selects w = false ∧ Row.clear.selects w = false) := by
  cases h1 : Row.nop.selects w with
  | true =>
    have h := (selects_nop_iff w).1 h1
    exact .inl ⟨(word_eq_iff_fields w 0).2 h, by unfold decode; rw [if_pos h1]⟩
  | false =>
  cases h2 : Row.init.selects w with
  | true =>
    have h := (selects_init_iff w).1 h2
    exact .inr (.inl ⟨h.1, h.2, by unfold decode; rw [h1, if_neg (by decide), if_pos h2]⟩)
  | false =>
  cases h3 : Row.seek.selects w with
  | true =>
    obtain ⟨a, b, c, d⟩ := (selects_seek_iff w).1 h3
    exact .inr (.inr (.inl ⟨a, b, c, d, by unfold decode; rw [h1, h2, if_neg (by decide), if_neg (by decide), if_pos h3]⟩))
  | false =>
  cases h4 : Row.xor.selects w with
  | true =>
    obtain ⟨a, b, c, d⟩ := (selects_xor_iff w).1 h4
    have h5 : Row.hash.selects w = false := by
      cases h : Row.hash.selects w with
      | false => rfl
      | true => have := ((selects_hash_iff w).1 h).2.2.2; rw [d] at this; exact absurd this (by decide)
    have h6 : Row.clear.selects w = false := by
      cases h : Row.clear.selects w with
      | false => rfl
      | true => have := ((selects_clear_iff w).1 h).2.2.2; rw [d] at this; exact absurd this (by decide)
    by_cases hl : (fieldLen w).toNat ≤ 4
    · refine .inr (.inr (.inr (.inl ⟨a, b, c, d, hl, ?_⟩)))
      unfold decode
      rw [h1, h2, h3, if_neg (by decide), if_neg (by decide), if_neg (by decide), if_pos h4, if_pos hl]
    · refine .inr (.inr (.inr (.inr (.inr (.inr ⟨.xorLength, ?_, rfl, rfl, rfl, fun _ => by omega, h5, h6⟩)))))
      unfold decode
      rw [h1, h2, h3, if_neg (by decide), if_neg (by decide), if_neg (by decide), if_pos h4, if_neg hl]
  | false =>
  cases h5 : Row.hash.selects w with
  | true =>
    have h := (selects_hash_iff w).1 h5
    refine .inr (.inr (.inr (.inr (.inl ⟨(word_eq_iff_fields w 4).2 h, ?_⟩))))
    unfold decode
    rw [h1, h2, h3, h4, if_neg (by decide), if_neg (by decide), if_neg (by decide), if_neg (by decide), if_pos h5]
  | false =>
  cases h6 : Row.clear.selects w with
  | true =>
    have h := (selects_clear_iff w).1 h6
    refine .inr (.inr (.inr (.inr (.inr (.inl ⟨(word_eq_iff_fields w 5).2 h, ?_⟩)))))
    unfold decode
    rw [h1, h2, h3, h4, h5, if_neg (by decide), if_neg (by decide), if_neg (by decide), if_neg (by decide),
      if_neg (by decide), if_pos h6]
  | false =>
    have hd : ∃ r, decode w = .error r := by
      unfold decode
      rw [h1, h2, h3, h4, h5, h6, if_neg (by decide), if_neg (by decide), if_neg (by decide), if_neg (by decide),
        if_neg (by decide), if_neg (by decide)]
      split <;> exact ⟨_, rfl⟩
    obtain ⟨r, hr⟩ := hd
    exact .inr (.inr (.inr (.inr (.inr (.inr ⟨r, hr, rfl, rfl, rfl, by simp, rfl, rfl⟩)))))

end Sys2Proof
end

