-- ==== Sys2Proof/Laws/State.lean ====
section
/-! SUPPORT. One lemma per field of State and shared update: what each update leaves in each field. -/

namespace Sys2Proof.Machine

/-! ### complete -/

@[simp] theorem complete_key (c : ResultCode) (s : State) : (complete c s).key = s.key := rfl
@[simp] theorem complete_nonce (c : ResultCode) (s : State) : (complete c s).nonce = s.nonce := rfl
@[simp] theorem complete_ctr (c : ResultCode) (s : State) : (complete c s).ctr = s.ctr := rfl
@[simp] theorem complete_exh (c : ResultCode) (s : State) : (complete c s).exh = s.exh := rfl
@[simp] theorem complete_fsm (c : ResultCode) (s : State) : (complete c s).fsm = s.fsm := rfl
@[simp] theorem complete_ks (c : ResultCode) (s : State) : (complete c s).ks = s.ks := rfl
@[simp] theorem complete_offset (c : ResultCode) (s : State) : (complete c s).offset = s.offset := rfl
@[simp] theorem complete_keyIn (c : ResultCode) (s : State) : (complete c s).keyIn = s.keyIn := rfl
@[simp] theorem complete_nonceIn (c : ResultCode) (s : State) : (complete c s).nonceIn = s.nonceIn := rfl
@[simp] theorem complete_ctrsetLo (c : ResultCode) (s : State) : (complete c s).ctrsetLo = s.ctrsetLo := rfl
@[simp] theorem complete_ctrsetHi (c : ResultCode) (s : State) : (complete c s).ctrsetHi = s.ctrsetHi := rfl
@[simp] theorem complete_din (c : ResultCode) (s : State) : (complete c s).din = s.din := rfl
@[simp] theorem complete_dout (c : ResultCode) (s : State) : (complete c s).dout = s.dout := rfl
@[simp] theorem complete_h (c : ResultCode) (s : State) : (complete c s).h = s.h := rfl
@[simp] theorem complete_busy (c : ResultCode) (s : State) : (complete c s).busy = false := rfl
@[simp] theorem complete_done (c : ResultCode) (s : State) : (complete c s).done = true := rfl
@[simp] theorem complete_werr (c : ResultCode) (s : State) : (complete c s).werr = s.werr := rfl
@[simp] theorem complete_err (c : ResultCode) (s : State) : (complete c s).err = c.number := rfl
@[simp] theorem complete_ie (c : ResultCode) (s : State) : (complete c s).ie = s.ie := rfl
@[simp] theorem complete_pcmd (c : ResultCode) (s : State) : (complete c s).pcmd = s.pcmd := rfl
@[simp] theorem complete_work (c : ResultCode) (s : State) : (complete c s).work = s.work := rfl
@[simp] theorem complete_roundPos (c : ResultCode) (s : State) : (complete c s).roundPos = s.roundPos := rfl
@[simp] theorem complete_latencyLeft (c : ResultCode) (s : State) : (complete c s).latencyLeft = 0 := rfl
@[simp] theorem complete_draws (c : ResultCode) (s : State) : (complete c s).draws = s.draws := rfl
@[simp] theorem complete_inputs (c : ResultCode) (s : State) : (complete c s).inputs = s.inputs := rfl
@[simp] theorem complete_reads (c : ResultCode) (s : State) : (complete c s).reads = s.reads := rfl

/-! ### acknowledge -/

@[simp] theorem acknowledge_key (s : State) : (acknowledge s).key = s.key := rfl
@[simp] theorem acknowledge_nonce (s : State) : (acknowledge s).nonce = s.nonce := rfl
@[simp] theorem acknowledge_ctr (s : State) : (acknowledge s).ctr = s.ctr := rfl
@[simp] theorem acknowledge_exh (s : State) : (acknowledge s).exh = s.exh := rfl
@[simp] theorem acknowledge_fsm (s : State) : (acknowledge s).fsm = s.fsm := rfl
@[simp] theorem acknowledge_ks (s : State) : (acknowledge s).ks = s.ks := rfl
@[simp] theorem acknowledge_offset (s : State) : (acknowledge s).offset = s.offset := rfl
@[simp] theorem acknowledge_keyIn (s : State) : (acknowledge s).keyIn = s.keyIn := rfl
@[simp] theorem acknowledge_nonceIn (s : State) : (acknowledge s).nonceIn = s.nonceIn := rfl
@[simp] theorem acknowledge_ctrsetLo (s : State) : (acknowledge s).ctrsetLo = s.ctrsetLo := rfl
@[simp] theorem acknowledge_ctrsetHi (s : State) : (acknowledge s).ctrsetHi = s.ctrsetHi := rfl
@[simp] theorem acknowledge_din (s : State) : (acknowledge s).din = s.din := rfl
@[simp] theorem acknowledge_dout (s : State) : (acknowledge s).dout = s.dout := rfl
@[simp] theorem acknowledge_h (s : State) : (acknowledge s).h = s.h := rfl
@[simp] theorem acknowledge_busy (s : State) : (acknowledge s).busy = s.busy := rfl
@[simp] theorem acknowledge_done (s : State) : (acknowledge s).done = false := rfl
@[simp] theorem acknowledge_werr (s : State) : (acknowledge s).werr = s.werr := rfl
@[simp] theorem acknowledge_err (s : State) : (acknowledge s).err = s.err := rfl
@[simp] theorem acknowledge_ie (s : State) : (acknowledge s).ie = s.ie := rfl
@[simp] theorem acknowledge_pcmd (s : State) : (acknowledge s).pcmd = s.pcmd := rfl
@[simp] theorem acknowledge_work (s : State) : (acknowledge s).work = s.work := rfl
@[simp] theorem acknowledge_roundPos (s : State) : (acknowledge s).roundPos = s.roundPos := rfl
@[simp] theorem acknowledge_latencyLeft (s : State) : (acknowledge s).latencyLeft = s.latencyLeft := rfl
@[simp] theorem acknowledge_draws (s : State) : (acknowledge s).draws = s.draws := rfl
@[simp] theorem acknowledge_inputs (s : State) : (acknowledge s).inputs = s.inputs := rfl
@[simp] theorem acknowledge_reads (s : State) : (acknowledge s).reads = s.reads := rfl

/-! ### refill -/

@[simp] theorem refill_key (s : State) : (refill s).key = s.key := rfl
@[simp] theorem refill_nonce (s : State) : (refill s).nonce = s.nonce := rfl
@[simp] theorem refill_ctr (s : State) : (refill s).ctr = nextCtr s.ctr := rfl
@[simp] theorem refill_exh (s : State) : (refill s).exh = (s.exh || wraps s.ctr) := rfl
@[simp] theorem refill_fsm (s : State) : (refill s).fsm = .generating := rfl
@[simp] theorem refill_ks (s : State) : (refill s).ks = block s.key s.nonce s.ctr := rfl
@[simp] theorem refill_offset (s : State) : (refill s).offset = 0 := rfl
@[simp] theorem refill_keyIn (s : State) : (refill s).keyIn = s.keyIn := rfl
@[simp] theorem refill_nonceIn (s : State) : (refill s).nonceIn = s.nonceIn := rfl
@[simp] theorem refill_ctrsetLo (s : State) : (refill s).ctrsetLo = s.ctrsetLo := rfl
@[simp] theorem refill_ctrsetHi (s : State) : (refill s).ctrsetHi = s.ctrsetHi := rfl
@[simp] theorem refill_din (s : State) : (refill s).din = s.din := rfl
@[simp] theorem refill_dout (s : State) : (refill s).dout = s.dout := rfl
@[simp] theorem refill_h (s : State) : (refill s).h = s.h := rfl
@[simp] theorem refill_busy (s : State) : (refill s).busy = s.busy := rfl
@[simp] theorem refill_done (s : State) : (refill s).done = s.done := rfl
@[simp] theorem refill_werr (s : State) : (refill s).werr = s.werr := rfl
@[simp] theorem refill_err (s : State) : (refill s).err = s.err := rfl
@[simp] theorem refill_ie (s : State) : (refill s).ie = s.ie := rfl
@[simp] theorem refill_pcmd (s : State) : (refill s).pcmd = s.pcmd := rfl
@[simp] theorem refill_work (s : State) : (refill s).work = s.work := rfl
@[simp] theorem refill_roundPos (s : State) : (refill s).roundPos = s.roundPos := rfl
@[simp] theorem refill_latencyLeft (s : State) : (refill s).latencyLeft = s.latencyLeft := rfl
@[simp] theorem refill_draws (s : State) : (refill s).draws = s.draws := rfl
@[simp] theorem refill_inputs (s : State) : (refill s).inputs = s.inputs := rfl
@[simp] theorem refill_reads (s : State) : (refill s).reads = s.reads := rfl

/-! ### newInstance -/

@[simp] theorem newInstance_key (s : State) : (newInstance s).key = s.keyIn := rfl
@[simp] theorem newInstance_nonce (s : State) : (newInstance s).nonce = s.nonceIn := rfl
@[simp] theorem newInstance_ctr (s : State) : (newInstance s).ctr = 0 := rfl
@[simp] theorem newInstance_exh (s : State) : (newInstance s).exh = false := rfl
@[simp] theorem newInstance_fsm (s : State) : (newInstance s).fsm = .initialized := rfl
@[simp] theorem newInstance_ks (s : State) : (newInstance s).ks = Words16.zero := rfl
@[simp] theorem newInstance_offset (s : State) : (newInstance s).offset = 64 := rfl
@[simp] theorem newInstance_keyIn (s : State) : (newInstance s).keyIn = s.keyIn := rfl
@[simp] theorem newInstance_nonceIn (s : State) : (newInstance s).nonceIn = s.nonceIn := rfl
@[simp] theorem newInstance_ctrsetLo (s : State) : (newInstance s).ctrsetLo = s.ctrsetLo := rfl
@[simp] theorem newInstance_ctrsetHi (s : State) : (newInstance s).ctrsetHi = s.ctrsetHi := rfl
@[simp] theorem newInstance_din (s : State) : (newInstance s).din = s.din := rfl
@[simp] theorem newInstance_dout (s : State) : (newInstance s).dout = 0 := rfl
@[simp] theorem newInstance_h (s : State) : (newInstance s).h = s.h := rfl
@[simp] theorem newInstance_busy (s : State) : (newInstance s).busy = s.busy := rfl
@[simp] theorem newInstance_done (s : State) : (newInstance s).done = s.done := rfl
@[simp] theorem newInstance_werr (s : State) : (newInstance s).werr = s.werr := rfl
@[simp] theorem newInstance_err (s : State) : (newInstance s).err = s.err := rfl
@[simp] theorem newInstance_ie (s : State) : (newInstance s).ie = s.ie := rfl
@[simp] theorem newInstance_pcmd (s : State) : (newInstance s).pcmd = s.pcmd := rfl
@[simp] theorem newInstance_work (s : State) : (newInstance s).work = s.work := rfl
@[simp] theorem newInstance_roundPos (s : State) : (newInstance s).roundPos = s.roundPos := rfl
@[simp] theorem newInstance_latencyLeft (s : State) : (newInstance s).latencyLeft = s.latencyLeft := rfl
@[simp] theorem newInstance_draws (s : State) : (newInstance s).draws = s.draws := rfl
@[simp] theorem newInstance_inputs (s : State) : (newInstance s).inputs = s.inputs := rfl
@[simp] theorem newInstance_reads (s : State) : (newInstance s).reads = s.reads := rfl

/-! ### zeroize -/

@[simp] theorem zeroize_key (s : State) : (zeroize s).key = Words8.zero := rfl
@[simp] theorem zeroize_nonce (s : State) : (zeroize s).nonce = Words2.zero := rfl
@[simp] theorem zeroize_ctr (s : State) : (zeroize s).ctr = 0 := rfl
@[simp] theorem zeroize_exh (s : State) : (zeroize s).exh = false := rfl
@[simp] theorem zeroize_fsm (s : State) : (zeroize s).fsm = .uninit := rfl
@[simp] theorem zeroize_ks (s : State) : (zeroize s).ks = Words16.zero := rfl
@[simp] theorem zeroize_offset (s : State) : (zeroize s).offset = 64 := rfl
@[simp] theorem zeroize_keyIn (s : State) : (zeroize s).keyIn = Words8.zero := rfl
@[simp] theorem zeroize_nonceIn (s : State) : (zeroize s).nonceIn = Words2.zero := rfl
@[simp] theorem zeroize_ctrsetLo (s : State) : (zeroize s).ctrsetLo = 0 := rfl
@[simp] theorem zeroize_ctrsetHi (s : State) : (zeroize s).ctrsetHi = 0 := rfl
@[simp] theorem zeroize_din (s : State) : (zeroize s).din = 0 := rfl
@[simp] theorem zeroize_dout (s : State) : (zeroize s).dout = 0 := rfl
@[simp] theorem zeroize_h (s : State) : (zeroize s).h = Words16.zero := rfl
@[simp] theorem zeroize_busy (s : State) : (zeroize s).busy = s.busy := rfl
@[simp] theorem zeroize_done (s : State) : (zeroize s).done = s.done := rfl
@[simp] theorem zeroize_werr (s : State) : (zeroize s).werr = s.werr := rfl
@[simp] theorem zeroize_err (s : State) : (zeroize s).err = s.err := rfl
@[simp] theorem zeroize_ie (s : State) : (zeroize s).ie = s.ie := rfl
@[simp] theorem zeroize_pcmd (s : State) : (zeroize s).pcmd = s.pcmd := rfl
@[simp] theorem zeroize_work (s : State) : (zeroize s).work = s.work := rfl
@[simp] theorem zeroize_roundPos (s : State) : (zeroize s).roundPos = s.roundPos := rfl
@[simp] theorem zeroize_latencyLeft (s : State) : (zeroize s).latencyLeft = s.latencyLeft := rfl
@[simp] theorem zeroize_draws (s : State) : (zeroize s).draws = s.draws := rfl
@[simp] theorem zeroize_inputs (s : State) : (zeroize s).inputs = s.inputs := rfl
@[simp] theorem zeroize_reads (s : State) : (zeroize s).reads = s.reads := rfl

/-! ### accept -/

@[simp] theorem accept_key (v : Word) (s : State) : (accept v s).key = s.key := rfl
@[simp] theorem accept_nonce (v : Word) (s : State) : (accept v s).nonce = s.nonce := rfl
@[simp] theorem accept_ctr (v : Word) (s : State) : (accept v s).ctr = s.ctr := rfl
@[simp] theorem accept_exh (v : Word) (s : State) : (accept v s).exh = s.exh := rfl
@[simp] theorem accept_fsm (v : Word) (s : State) : (accept v s).fsm = s.fsm := rfl
@[simp] theorem accept_ks (v : Word) (s : State) : (accept v s).ks = s.ks := rfl
@[simp] theorem accept_offset (v : Word) (s : State) : (accept v s).offset = s.offset := rfl
@[simp] theorem accept_keyIn (v : Word) (s : State) : (accept v s).keyIn = s.keyIn := rfl
@[simp] theorem accept_nonceIn (v : Word) (s : State) : (accept v s).nonceIn = s.nonceIn := rfl
@[simp] theorem accept_ctrsetLo (v : Word) (s : State) : (accept v s).ctrsetLo = s.ctrsetLo := rfl
@[simp] theorem accept_ctrsetHi (v : Word) (s : State) : (accept v s).ctrsetHi = s.ctrsetHi := rfl
@[simp] theorem accept_din (v : Word) (s : State) : (accept v s).din = s.din := rfl
@[simp] theorem accept_dout (v : Word) (s : State) : (accept v s).dout = s.dout := rfl
@[simp] theorem accept_h (v : Word) (s : State) : (accept v s).h = s.h := rfl
@[simp] theorem accept_busy (v : Word) (s : State) : (accept v s).busy = true := rfl
@[simp] theorem accept_done (v : Word) (s : State) : (accept v s).done = false := rfl
@[simp] theorem accept_werr (v : Word) (s : State) : (accept v s).werr = s.werr := rfl
@[simp] theorem accept_err (v : Word) (s : State) : (accept v s).err = s.err := rfl
@[simp] theorem accept_ie (v : Word) (s : State) : (accept v s).ie = s.ie := rfl
@[simp] theorem accept_pcmd (v : Word) (s : State) : (accept v s).pcmd = v := rfl
@[simp] theorem accept_work (v : Word) (s : State) : (accept v s).work = Config.freeWork s.draws := rfl
@[simp] theorem accept_roundPos (v : Word) (s : State) : (accept v s).roundPos = Config.freeRoundPos s.draws := rfl
@[simp] theorem accept_latencyLeft (v : Word) (s : State) : (accept v s).latencyLeft = Config.extraLatency v s.fsm.code s.exh s.offset := rfl
@[simp] theorem accept_draws (v : Word) (s : State) : (accept v s).draws = s.draws + 1 := rfl
@[simp] theorem accept_inputs (v : Word) (s : State) : (accept v s).inputs = s.inputs := rfl
@[simp] theorem accept_reads (v : Word) (s : State) : (accept v s).reads = s.reads := rfl

/-! ### writeStatus -/

@[simp] theorem writeStatus_key (v : Word) (s : State) : (writeStatus v s).key = s.key := rfl
@[simp] theorem writeStatus_nonce (v : Word) (s : State) : (writeStatus v s).nonce = s.nonce := rfl
@[simp] theorem writeStatus_ctr (v : Word) (s : State) : (writeStatus v s).ctr = s.ctr := rfl
@[simp] theorem writeStatus_exh (v : Word) (s : State) : (writeStatus v s).exh = s.exh := rfl
@[simp] theorem writeStatus_fsm (v : Word) (s : State) : (writeStatus v s).fsm = s.fsm := rfl
@[simp] theorem writeStatus_ks (v : Word) (s : State) : (writeStatus v s).ks = s.ks := rfl
@[simp] theorem writeStatus_offset (v : Word) (s : State) : (writeStatus v s).offset = s.offset := rfl
@[simp] theorem writeStatus_keyIn (v : Word) (s : State) : (writeStatus v s).keyIn = s.keyIn := rfl
@[simp] theorem writeStatus_nonceIn (v : Word) (s : State) : (writeStatus v s).nonceIn = s.nonceIn := rfl
@[simp] theorem writeStatus_ctrsetLo (v : Word) (s : State) : (writeStatus v s).ctrsetLo = s.ctrsetLo := rfl
@[simp] theorem writeStatus_ctrsetHi (v : Word) (s : State) : (writeStatus v s).ctrsetHi = s.ctrsetHi := rfl
@[simp] theorem writeStatus_din (v : Word) (s : State) : (writeStatus v s).din = s.din := rfl
@[simp] theorem writeStatus_dout (v : Word) (s : State) : (writeStatus v s).dout = s.dout := rfl
@[simp] theorem writeStatus_h (v : Word) (s : State) : (writeStatus v s).h = s.h := rfl
@[simp] theorem writeStatus_busy (v : Word) (s : State) : (writeStatus v s).busy = s.busy := rfl
@[simp] theorem writeStatus_done (v : Word) (s : State) : (writeStatus v s).done = (s.done && !v.getLsbD 1) := rfl
@[simp] theorem writeStatus_werr (v : Word) (s : State) : (writeStatus v s).werr = (s.werr && !v.getLsbD 2) := rfl
@[simp] theorem writeStatus_err (v : Word) (s : State) : (writeStatus v s).err = s.err := rfl
@[simp] theorem writeStatus_ie (v : Word) (s : State) : (writeStatus v s).ie = s.ie := rfl
@[simp] theorem writeStatus_pcmd (v : Word) (s : State) : (writeStatus v s).pcmd = s.pcmd := rfl
@[simp] theorem writeStatus_work (v : Word) (s : State) : (writeStatus v s).work = s.work := rfl
@[simp] theorem writeStatus_roundPos (v : Word) (s : State) : (writeStatus v s).roundPos = s.roundPos := rfl
@[simp] theorem writeStatus_latencyLeft (v : Word) (s : State) : (writeStatus v s).latencyLeft = s.latencyLeft := rfl
@[simp] theorem writeStatus_draws (v : Word) (s : State) : (writeStatus v s).draws = s.draws := rfl
@[simp] theorem writeStatus_inputs (v : Word) (s : State) : (writeStatus v s).inputs = s.inputs := rfl
@[simp] theorem writeStatus_reads (v : Word) (s : State) : (writeStatus v s).reads = s.reads := rfl

/-! ### applyReset -/

@[simp] theorem applyReset_key (s : State) : (applyReset s).key = Words8.zero := rfl
@[simp] theorem applyReset_nonce (s : State) : (applyReset s).nonce = Words2.zero := rfl
@[simp] theorem applyReset_ctr (s : State) : (applyReset s).ctr = 0 := rfl
@[simp] theorem applyReset_exh (s : State) : (applyReset s).exh = false := rfl
@[simp] theorem applyReset_fsm (s : State) : (applyReset s).fsm = .uninit := rfl
@[simp] theorem applyReset_ks (s : State) : (applyReset s).ks = Words16.zero := rfl
@[simp] theorem applyReset_offset (s : State) : (applyReset s).offset = 64 := rfl
@[simp] theorem applyReset_keyIn (s : State) : (applyReset s).keyIn = Words8.zero := rfl
@[simp] theorem applyReset_nonceIn (s : State) : (applyReset s).nonceIn = Words2.zero := rfl
@[simp] theorem applyReset_ctrsetLo (s : State) : (applyReset s).ctrsetLo = 0 := rfl
@[simp] theorem applyReset_ctrsetHi (s : State) : (applyReset s).ctrsetHi = 0 := rfl
@[simp] theorem applyReset_din (s : State) : (applyReset s).din = 0 := rfl
@[simp] theorem applyReset_dout (s : State) : (applyReset s).dout = 0 := rfl
@[simp] theorem applyReset_h (s : State) : (applyReset s).h = Words16.zero := rfl
@[simp] theorem applyReset_busy (s : State) : (applyReset s).busy = false := rfl
@[simp] theorem applyReset_done (s : State) : (applyReset s).done = false := rfl
@[simp] theorem applyReset_werr (s : State) : (applyReset s).werr = false := rfl
@[simp] theorem applyReset_err (s : State) : (applyReset s).err = 0 := rfl
@[simp] theorem applyReset_ie (s : State) : (applyReset s).ie = false := rfl
@[simp] theorem applyReset_pcmd (s : State) : (applyReset s).pcmd = Config.freePcmd s.draws := rfl
@[simp] theorem applyReset_work (s : State) : (applyReset s).work = Config.freeWork s.draws := rfl
@[simp] theorem applyReset_roundPos (s : State) : (applyReset s).roundPos = Config.freeRoundPos s.draws := rfl
@[simp] theorem applyReset_latencyLeft (s : State) : (applyReset s).latencyLeft = 0 := rfl
@[simp] theorem applyReset_draws (s : State) : (applyReset s).draws = s.draws + 1 := rfl
@[simp] theorem applyReset_inputs (s : State) : (applyReset s).inputs = s.inputs := rfl
@[simp] theorem applyReset_reads (s : State) : (applyReset s).reads = s.reads := rfl

/-! ### coreTick, which moves the model's latency and the internal state alone -/

@[simp] theorem coreTick_key (s : State) : (coreTick s).key = s.key := by
  unfold coreTick; split <;> rfl
@[simp] theorem coreTick_nonce (s : State) : (coreTick s).nonce = s.nonce := by
  unfold coreTick; split <;> rfl
@[simp] theorem coreTick_ctr (s : State) : (coreTick s).ctr = s.ctr := by
  unfold coreTick; split <;> rfl
@[simp] theorem coreTick_exh (s : State) : (coreTick s).exh = s.exh := by
  unfold coreTick; split <;> rfl
@[simp] theorem coreTick_fsm (s : State) : (coreTick s).fsm = s.fsm := by
  unfold coreTick; split <;> rfl
@[simp] theorem coreTick_ks (s : State) : (coreTick s).ks = s.ks := by
  unfold coreTick; split <;> rfl
@[simp] theorem coreTick_offset (s : State) : (coreTick s).offset = s.offset := by
  unfold coreTick; split <;> rfl
@[simp] theorem coreTick_keyIn (s : State) : (coreTick s).keyIn = s.keyIn := by
  unfold coreTick; split <;> rfl
@[simp] theorem coreTick_nonceIn (s : State) : (coreTick s).nonceIn = s.nonceIn := by
  unfold coreTick; split <;> rfl
@[simp] theorem coreTick_ctrsetLo (s : State) : (coreTick s).ctrsetLo = s.ctrsetLo := by
  unfold coreTick; split <;> rfl
@[simp] theorem coreTick_ctrsetHi (s : State) : (coreTick s).ctrsetHi = s.ctrsetHi := by
  unfold coreTick; split <;> rfl
@[simp] theorem coreTick_din (s : State) : (coreTick s).din = s.din := by
  unfold coreTick; split <;> rfl
@[simp] theorem coreTick_dout (s : State) : (coreTick s).dout = s.dout := by
  unfold coreTick; split <;> rfl
@[simp] theorem coreTick_h (s : State) : (coreTick s).h = s.h := by
  unfold coreTick; split <;> rfl
@[simp] theorem coreTick_busy (s : State) : (coreTick s).busy = s.busy := by
  unfold coreTick; split <;> rfl
@[simp] theorem coreTick_done (s : State) : (coreTick s).done = s.done := by
  unfold coreTick; split <;> rfl
@[simp] theorem coreTick_werr (s : State) : (coreTick s).werr = s.werr := by
  unfold coreTick; split <;> rfl
@[simp] theorem coreTick_err (s : State) : (coreTick s).err = s.err := by
  unfold coreTick; split <;> rfl
@[simp] theorem coreTick_ie (s : State) : (coreTick s).ie = s.ie := by
  unfold coreTick; split <;> rfl
@[simp] theorem coreTick_pcmd (s : State) : (coreTick s).pcmd = s.pcmd := by
  unfold coreTick; split <;> rfl
@[simp] theorem coreTick_inputs (s : State) : (coreTick s).inputs = s.inputs := by
  unfold coreTick; split <;> rfl
@[simp] theorem coreTick_reads (s : State) : (coreTick s).reads = s.reads := by
  unfold coreTick; split <;> rfl

theorem coreTick_idle (s : State) (h : s.busy = false) : coreTick s = s := by simp [coreTick, h]

@[simp] theorem coreTick_latencyLeft (s : State) :
    (coreTick s).latencyLeft = if s.busy then s.latencyLeft - 1 else s.latencyLeft := by
  unfold coreTick; split <;> rfl

@[simp] theorem coreTick_draws (s : State) : (coreTick s).draws = if s.busy then s.draws + 1 else s.draws := by
  unfold coreTick; split <;> rfl

/-! ### portRead, which moves the host's record and the draw counter alone -/

@[simp] theorem portRead_key (off : BitVec 8) (s : State) : (portRead off s).key = s.key := by
  unfold portRead; split <;> rfl
@[simp] theorem portRead_nonce (off : BitVec 8) (s : State) : (portRead off s).nonce = s.nonce := by
  unfold portRead; split <;> rfl
@[simp] theorem portRead_ctr (off : BitVec 8) (s : State) : (portRead off s).ctr = s.ctr := by
  unfold portRead; split <;> rfl
@[simp] theorem portRead_exh (off : BitVec 8) (s : State) : (portRead off s).exh = s.exh := by
  unfold portRead; split <;> rfl
@[simp] theorem portRead_fsm (off : BitVec 8) (s : State) : (portRead off s).fsm = s.fsm := by
  unfold portRead; split <;> rfl
@[simp] theorem portRead_ks (off : BitVec 8) (s : State) : (portRead off s).ks = s.ks := by
  unfold portRead; split <;> rfl
@[simp] theorem portRead_offset (off : BitVec 8) (s : State) : (portRead off s).offset = s.offset := by
  unfold portRead; split <;> rfl
@[simp] theorem portRead_keyIn (off : BitVec 8) (s : State) : (portRead off s).keyIn = s.keyIn := by
  unfold portRead; split <;> rfl
@[simp] theorem portRead_nonceIn (off : BitVec 8) (s : State) : (portRead off s).nonceIn = s.nonceIn := by
  unfold portRead; split <;> rfl
@[simp] theorem portRead_ctrsetLo (off : BitVec 8) (s : State) : (portRead off s).ctrsetLo = s.ctrsetLo := by
  unfold portRead; split <;> rfl
@[simp] theorem portRead_ctrsetHi (off : BitVec 8) (s : State) : (portRead off s).ctrsetHi = s.ctrsetHi := by
  unfold portRead; split <;> rfl
@[simp] theorem portRead_din (off : BitVec 8) (s : State) : (portRead off s).din = s.din := by
  unfold portRead; split <;> rfl
@[simp] theorem portRead_dout (off : BitVec 8) (s : State) : (portRead off s).dout = s.dout := by
  unfold portRead; split <;> rfl
@[simp] theorem portRead_h (off : BitVec 8) (s : State) : (portRead off s).h = s.h := by
  unfold portRead; split <;> rfl
@[simp] theorem portRead_busy (off : BitVec 8) (s : State) : (portRead off s).busy = s.busy := by
  unfold portRead; split <;> rfl
@[simp] theorem portRead_done (off : BitVec 8) (s : State) : (portRead off s).done = s.done := by
  unfold portRead; split <;> rfl
@[simp] theorem portRead_werr (off : BitVec 8) (s : State) : (portRead off s).werr = s.werr := by
  unfold portRead; split <;> rfl
@[simp] theorem portRead_err (off : BitVec 8) (s : State) : (portRead off s).err = s.err := by
  unfold portRead; split <;> rfl
@[simp] theorem portRead_ie (off : BitVec 8) (s : State) : (portRead off s).ie = s.ie := by
  unfold portRead; split <;> rfl
@[simp] theorem portRead_pcmd (off : BitVec 8) (s : State) : (portRead off s).pcmd = s.pcmd := by
  unfold portRead; split <;> rfl
@[simp] theorem portRead_work (off : BitVec 8) (s : State) : (portRead off s).work = s.work := by
  unfold portRead; split <;> rfl
@[simp] theorem portRead_roundPos (off : BitVec 8) (s : State) : (portRead off s).roundPos = s.roundPos := by
  unfold portRead; split <;> rfl
@[simp] theorem portRead_latencyLeft (off : BitVec 8) (s : State) : (portRead off s).latencyLeft = s.latencyLeft := by
  unfold portRead; split <;> rfl
@[simp] theorem portRead_inputs (off : BitVec 8) (s : State) : (portRead off s).inputs = s.inputs := by
  unfold portRead; split <;> rfl

end Sys2Proof.Machine
end

