-- ==== Sys2Proof/Laws/Keystream.lean ====
section
/-! SUPPORT. What the keystream loop of XOR does: byte lanes, the upcoming keystream bytes, the loop's frame, its position and
its result. -/

namespace Sys2Proof.Machine

/-! ### Byte lanes -/

theorem wordByte_getLsbD (w : Word) (j k : Nat) :
    (wordByte w j).getLsbD k = (decide (k < 8) && w.getLsbD (8 * j + k)) := by
  simp [wordByte]

theorem setByte_getLsbD (w : Word) (j : Nat) (b : Byte) (k : Nat) :
    (setByte w j b).getLsbD k =
      if 8 * j ≤ k ∧ k < 8 * j + 8 ∧ k < 32 then b.getLsbD (k - 8 * j) else w.getLsbD k := by
  have hff : ∀ n, (0xFF : Word).getLsbD n = decide (n < 8) := by
    intro n
    by_cases h : n < 32
    · revert n; decide
    · rw [BitVec.getLsbD_of_ge _ _ (by omega), eq_comm, decide_eq_false_iff_not]; omega
  simp only [setByte, BitVec.getLsbD_or, BitVec.getLsbD_and, BitVec.getLsbD_not, BitVec.getLsbD_shiftLeft,
    BitVec.getLsbD_setWidth, hff]
  by_cases h1 : k < 32
  · by_cases h2 : k < 8 * j
    · simp only [h1, h2]; simp; omega
    · by_cases h3 : k < 8 * j + 8
      · have h4 : k - 8 * j < 8 := by omega
        have h5 : k - 8 * j < 32 := by omega
        simp only [h1, h2, h3, h4, h5]; simp; omega
      · have h4 : ¬ k - 8 * j < 8 := by omega
        have hb : b.getLsbD (k - 8 * j) = false := BitVec.getLsbD_of_ge _ _ (by omega)
        simp only [h1, h2, h3, h4, hb]; simp
  · have : w.getLsbD k = false := BitVec.getLsbD_of_ge _ _ (by omega)
    simp [h1, this]

/-- Setting a byte of a word sets that byte. -/
theorem wordByte_setByte_same (w : Word) (j : Nat) (b : Byte) (h : j < 4) : wordByte (setByte w j b) j = b := by
  apply BitVec.eq_of_getLsbD_eq
  intro k hk
  rw [wordByte_getLsbD, setByte_getLsbD, if_pos (by omega)]
  simp [hk]

/-- Setting a byte of a word leaves the others. -/
theorem wordByte_setByte_other (w : Word) (i j : Nat) (b : Byte) (h : i ≠ j) :
    wordByte (setByte w j b) i = wordByte w i := by
  apply BitVec.eq_of_getLsbD_eq
  intro k hk
  rw [wordByte_getLsbD, setByte_getLsbD, wordByte_getLsbD, if_neg (by omega)]

theorem wordByte_zero (j : Nat) : wordByte 0 j = 0 := by simp [wordByte]

/-! ### The loop -/

/-- The keystream byte k places ahead in a state whose next refill is the block of CTR. -/
def upcoming (s : State) (k : Nat) : Byte :=
  if s.offset.val + k < 64 then blockByte s.ks (Fin.ofNat 64 (s.offset.val + k))
  else blockByte (block s.key s.nonce s.ctr) (Fin.ofNat 64 (s.offset.val + k - 64))

/-- The state after one keystream byte is consumed. -/
def advance (s : State) : State :=
  let t := refillIfEmpty s
  { t with offset := t.offset + 1 }

theorem xorBytes_succ (n j : Nat) (out : Word) (s : State) :
    xorBytes (n + 1) j out s =
      xorBytes n (j + 1) (setByte out j (wordByte (refillIfEmpty s).din j ^^^ nextKeystreamByte (refillIfEmpty s))) (advance s) :=
  rfl

theorem refillIfEmpty_din (s : State) : (refillIfEmpty s).din = s.din := by
  unfold refillIfEmpty; split <;> rfl

theorem offset_lt_of_ne (s : State) (h : s.offset ≠ 64) : s.offset.val < 64 := by
  have h1 := s.offset.isLt
  have h2 : s.offset.val ≠ 64 := fun e => h (Fin.ext e)
  omega

theorem nextKeystreamByte_eq (s : State) : nextKeystreamByte (refillIfEmpty s) = upcoming s 0 := by
  unfold refillIfEmpty
  by_cases h : s.offset = 64
  · simp [h, nextKeystreamByte, upcoming]
  · have := offset_lt_of_ne s h
    simp [h, nextKeystreamByte, upcoming, this]

theorem advance_offset (s : State) :
    (advance s).offset.val = if s.offset.val = 64 then 1 else s.offset.val + 1 := by
  by_cases h : s.offset = 64
  · simp [advance, refillIfEmpty, h]
  · have h1 := offset_lt_of_ne s h
    have h2 : s.offset.val ≠ 64 := by omega
    simp [advance, refillIfEmpty, h, h2, Fin.val_add]
    omega

theorem advance_of_ne (s : State) (h : s.offset ≠ 64) : advance s = { s with offset := s.offset + 1 } := by
  simp [advance, refillIfEmpty, h]

theorem advance_of_eq (s : State) (h : s.offset = 64) : advance s = { refill s with offset := 1 } := by
  simp [advance, refillIfEmpty, h]

theorem advance_din (s : State) : (advance s).din = s.din := by
  by_cases h : s.offset = 64
  · rw [advance_of_eq s h]; rfl
  · rw [advance_of_ne s h]

theorem upcoming_advance (s : State) (k : Nat) (hk : k + 1 < 64) : upcoming (advance s) k = upcoming s (k + 1) := by
  by_cases h : s.offset = 64
  · have h1 : 1 + k < 64 := by omega
    have h2 : 64 + (k + 1) - 64 = 1 + k := by omega
    rw [advance_of_eq s h]
    simp [upcoming, h, h1, h2]
  · have h1 := offset_lt_of_ne s h
    have h2 : (s.offset + 1).val = s.offset.val + 1 := by
      rw [Fin.val_add]; simp; omega
    rw [advance_of_ne s h]
    simp only [upcoming, h2]
    rw [Nat.add_assoc, Nat.add_comm 1 k]

/-- The result of the loop: byte i of the lanes it covers is the DIN byte XOR the keystream byte i - j places ahead, and the
other lanes keep what out held. -/
theorem xorBytes_result (n j : Nat) (out : Word) (s : State) (h : j + n ≤ 4) (i : Nat) (hi : i < 4) :
    wordByte (xorBytes n j out s).2 i =
      if j ≤ i ∧ i < j + n then wordByte s.din i ^^^ upcoming s (i - j) else wordByte out i := by
  induction n generalizing j out s with
  | zero => rw [if_neg (by omega)]; rfl
  | succ n ih =>
    rw [xorBytes_succ, ih _ _ _ (by omega), advance_din, refillIfEmpty_din, nextKeystreamByte_eq]
    by_cases h1 : i = j
    · subst h1
      rw [if_neg (by omega), if_pos (by omega), wordByte_setByte_same _ _ _ hi, Nat.sub_self]
    · rw [wordByte_setByte_other _ _ _ _ h1]
      by_cases h2 : j + 1 ≤ i ∧ i < j + 1 + n
      · rw [if_pos h2, if_pos (by omega), upcoming_advance _ _ (by omega)]
        congr 3; omega
      · rw [if_neg h2, if_neg (by omega)]

/-- While the buffer has the bytes, the loop only moves OFFSET. -/
theorem xorBytes_within (n j : Nat) (out : Word) (s : State) (h : s.offset.val + n ≤ 64) :
    (xorBytes n j out s).1 = { s with offset := Fin.ofNat 65 (s.offset.val + n) } := by
  induction n generalizing j out s with
  | zero =>
    have : Fin.ofNat 65 (s.offset.val + 0) = s.offset := by
      apply Fin.ext; simp
    rw [this]; rfl
  | succ n ih =>
    have h1 : s.offset ≠ 64 := fun e => by rw [e] at h; simp at h
    have h2 : (s.offset + 1).val = s.offset.val + 1 := by
      rw [Fin.val_add]; simp; omega
    rw [xorBytes_succ, advance_of_ne s h1, ih _ _ _ (by simp only [h2]; omega)]
    simp only [h2]
    rw [Nat.add_assoc, Nat.add_comm 1 n]

theorem xorBytes_state_indep (n j j' : Nat) (out out' : Word) (s : State) :
    (xorBytes n j out s).1 = (xorBytes n j' out' s).1 := by
  induction n generalizing j j' out out' s with
  | zero => rfl
  | succ n ih => rw [xorBytes_succ, xorBytes_succ]; exact ih _ _ _ _ _

/-- Where the buffer has fewer bytes than asked for, the loop refills once and leaves OFFSET in the new block. -/
theorem xorBytes_straddle (n j : Nat) (out : Word) (s : State) (h : 64 < s.offset.val + n) (hn : n ≤ 64) :
    (xorBytes n j out s).1 = { refill s with offset := Fin.ofNat 65 (s.offset.val + n - 64) } := by
  induction n generalizing j out s with
  | zero => have := s.offset.isLt; omega
  | succ n ih =>
    by_cases h1 : s.offset = 64
    · rw [xorBytes_succ, advance_of_eq s h1, xorBytes_within _ _ _ _ (by simp; omega)]
      have h2 : s.offset.val + (n + 1) - 64 = 1 + n := by rw [h1]; simp; omega
      rw [h2]; rfl
    · have h0 := offset_lt_of_ne s h1
      have h2 : (s.offset + 1).val = s.offset.val + 1 := by
        rw [Fin.val_add]; simp; omega
      rw [xorBytes_succ, advance_of_ne s h1, ih _ _ _ (by simp only [h2]; omega) (by omega)]
      simp only [h2]
      rw [Nat.add_assoc, Nat.add_comm 1 n]
      rfl

/-! ### xorEffect -/

theorem xorEffect_within (n : Nat) (s : State) (h : s.offset.val + n ≤ 64) :
    xorEffect n s = { s with offset := Fin.ofNat 65 (s.offset.val + n), dout := (xorBytes n 0 0 s).2 } := by
  simp only [xorEffect]; rw [xorBytes_within _ _ _ _ h]

theorem xorEffect_straddle (n : Nat) (s : State) (h : 64 < s.offset.val + n) (hn : n ≤ 64) :
    xorEffect n s =
      { refill s with offset := Fin.ofNat 65 (s.offset.val + n - 64), dout := (xorBytes n 0 0 s).2 } := by
  simp only [xorEffect]; rw [xorBytes_straddle _ _ _ _ h hn]

/-- DOUT after a successful XOR: the combined bytes, and 0 in the lanes above. -/
theorem xorEffect_dout (n : Nat) (s : State) (hn : n ≤ 4) (i : Nat) (hi : i < 4) :
    wordByte (xorEffect n s).dout i = if i < n then wordByte s.din i ^^^ upcoming s i else 0 := by
  have h := xorBytes_result n 0 0 s (by omega) i hi
  rw [wordByte_zero] at h
  simpa [xorEffect] using h

/-! ### The outcomes of XOR -/

/-- What XOR answers: one of five completions. -/
theorem execXor_cases (len : BitVec 3) (s : State) :
    (len.toNat > 4 ∧ execXor len s = .next (complete .illegalCommand s)) ∨
    (len.toNat ≤ 4 ∧ s.fsm = .uninit ∧ execXor len s = .next (complete .invalidState s)) ∨
    (len.toNat ≤ 4 ∧ s.fsm = .overflow ∧ execXor len s = .next (complete .counterOverflow s)) ∨
    (len.toNat ≤ 4 ∧ (s.fsm = .initialized ∨ s.fsm = .generating) ∧ 64 - s.offset.val < len.toNat ∧ s.exh = true ∧
      execXor len s = .next (complete .counterOverflow { s with fsm := .overflow })) ∨
    (len.toNat ≤ 4 ∧ (s.fsm = .initialized ∨ s.fsm = .generating) ∧ ¬ (64 - s.offset.val < len.toNat ∧ s.exh = true) ∧
      execXor len s = .next (complete .ok (xorEffect len.toNat s))) := by
  by_cases h4 : len.toNat > 4
  · exact .inl ⟨h4, by simp [execXor, byteCount, Config.xorMaxBytes, h4, raiseIllegal, raise]⟩
  · have h4' : len.toNat ≤ 4 := by omega
    by_cases hx : 64 - s.offset.val < len.toNat ∧ s.exh = true
    · have he : exhausted len.toNat s = true := by simp [exhausted, Config.blockBytes, hx.1, hx.2]
      cases hf : s.fsm <;>
        simp [execXor, byteCount, Config.xorMaxBytes, h4, h4', hf, he, hx.1, hx.2, raise]
    · have he : exhausted len.toNat s = false := by
        by_cases h1 : 64 - s.offset.val < len.toNat
        · have h2 : s.exh = false := by
            cases h3 : s.exh
            · rfl
            · exact absurd ⟨h1, h3⟩ hx
          simp [exhausted, h2]
        · simp [exhausted, Config.blockBytes, h1]
      cases hf : s.fsm with
      | uninit => exact .inr (.inl ⟨h4', rfl, by simp [execXor, byteCount, Config.xorMaxBytes, h4, hf, raise]⟩)
      | overflow => exact .inr (.inr (.inl ⟨h4', rfl, by simp [execXor, byteCount, Config.xorMaxBytes, h4, hf, raise]⟩))
      | initialized =>
        exact .inr (.inr (.inr (.inr ⟨h4', .inl rfl, hx, by
          simp [execXor, byteCount, Config.xorMaxBytes, h4, hf, he, finish]⟩)))
      | generating =>
        exact .inr (.inr (.inr (.inr ⟨h4', .inr rfl, hx, by
          simp [execXor, byteCount, Config.xorMaxBytes, h4, hf, he, finish]⟩)))

end Sys2Proof.Machine
end

