-- ==== Sys2Proof/Laws/Exec.lean ====
section
/-! SUPPORT. What exec and the step can answer, once for all later proofs. -/

namespace Sys2Proof.Machine

/-- What INIT answers: one of three completions. -/
theorem execInit_cases (k n : BitVec 8) (s : State) :
    (k.toNat ≠ 32 ∧ execInit k n s = .next (complete .invalidKeyLength s)) ∨
    (k.toNat = 32 ∧ n.toNat ≠ 8 ∧ execInit k n s = .next (complete .invalidNonceLength s)) ∨
    (k = 32 ∧ n = 8 ∧ execInit k n s = .next (complete .ok (newInstance s))) := by
  by_cases hk : k.toNat = 32
  · by_cases hn : n.toNat = 8
    · refine .inr (.inr ⟨BitVec.eq_of_toNat_eq hk, BitVec.eq_of_toNat_eq hn, ?_⟩)
      simp [execInit, keyLength, nonceLength, Config.keyBytes, Config.nonceBytes, hk, hn, finish]
    · exact .inr (.inl ⟨hk, hn, by
        simp [execInit, keyLength, nonceLength, Config.keyBytes, Config.nonceBytes, hk, hn, raise]⟩)
  · exact .inl ⟨hk, by simp [execInit, keyLength, Config.keyBytes, hk, raise]⟩

theorem seekTo_zero (s : State) : seekTo 0 s = { s with ctr := startCounter s, exh := false, offset := 64 } := rfl

/-- SEEK with a byte offset: one refill from the starting counter, then OFFSET. -/
theorem seekTo_ne (b : BitVec 6) (s : State) (hb : b ≠ 0) :
    seekTo b s =
      { s with
        ks := block s.key s.nonce (startCounter s)
        exh := wraps (startCounter s)
        ctr := nextCtr (startCounter s)
        offset := byteOffset b
        fsm := .generating } := by
  simp only [seekTo]; rw [if_neg hb]; simp [refill]

/-- What SEEK answers, by the FSM state. -/
theorem execSeek_cases (b : BitVec 6) (s : State) :
    ((s.fsm = .uninit ∨ s.fsm = .generating) ∧ execSeek b s = .next (complete .invalidState s)) ∨
    (s.fsm = .overflow ∧ execSeek b s = .next (complete .counterOverflow s)) ∨
    (s.fsm = .initialized ∧ execSeek b s = .next (complete .ok (seekTo b s))) := by
  cases h : s.fsm <;> simp [execSeek, h, raise, finish]

/-- Every command ends in one of these completions. -/
theorem exec_cases (i : Instr) (s : State) :
    (∃ c, c ≠ .ok ∧ exec i s = .next (complete c s)) ∨
    (∃ len, i = .xor len ∧ (s.fsm = .initialized ∨ s.fsm = .generating) ∧ 64 - s.offset.val < len.toNat ∧ s.exh = true ∧
      exec i s = .next (complete .counterOverflow { s with fsm := .overflow })) ∨
    (i = .nop ∧ exec i s = .next (complete .ok s)) ∨
    (i = .init 32 8 ∧ exec i s = .next (complete .ok (newInstance s))) ∨
    (∃ b, i = .seek b ∧ s.fsm = .initialized ∧ exec i s = .next (complete .ok (seekTo b s))) ∨
    (∃ len, i = .xor len ∧ len.toNat ≤ 4 ∧ (s.fsm = .initialized ∨ s.fsm = .generating) ∧
      ¬ (64 - s.offset.val < len.toNat ∧ s.exh = true) ∧ exec i s = .next (complete .ok (xorEffect len.toNat s))) ∨
    (i = .hash ∧ exec i s = .next (complete .ok { s with h := coreFunction s.h })) ∨
    (i = .clear ∧ exec i s = .next (complete .ok (zeroize s))) := by
  cases i with
  | nop => exact .inr (.inr (.inl ⟨rfl, rfl⟩))
  | init k n =>
    rcases execInit_cases k n s with ⟨-, h⟩ | ⟨-, -, h⟩ | ⟨rfl, rfl, h⟩
    · exact .inl ⟨_, by simp, h⟩
    · exact .inl ⟨_, by simp, h⟩
    · exact .inr (.inr (.inr (.inl ⟨rfl, h⟩)))
  | seek b =>
    rcases execSeek_cases b s with ⟨-, h⟩ | ⟨-, h⟩ | ⟨hf, h⟩
    · exact .inl ⟨_, by simp, h⟩
    · exact .inl ⟨_, by simp, h⟩
    · exact .inr (.inr (.inr (.inr (.inl ⟨b, rfl, hf, h⟩))))
  | xor len =>
    rcases execXor_cases len s with ⟨-, h⟩ | ⟨-, -, h⟩ | ⟨-, -, h⟩ | ⟨-, hf, ho, he, h⟩ | ⟨hl, hf, hx, h⟩
    · exact .inl ⟨_, by simp, h⟩
    · exact .inl ⟨_, by simp, h⟩
    · exact .inl ⟨_, by simp, h⟩
    · exact .inr (.inl ⟨len, rfl, hf, ho, he, h⟩)
    · exact .inr (.inr (.inr (.inr (.inr (.inl ⟨len, rfl, hl, hf, hx, h⟩)))))
  | hash => exact .inr (.inr (.inr (.inr (.inr (.inr (.inl ⟨rfl, rfl⟩))))))
  | clear => exact .inr (.inr (.inr (.inr (.inr (.inr (.inr ⟨rfl, rfl⟩))))))

/-- The three kinds of step: reset, the completion that is due, and the host's input. -/
theorem step_cases (s : State) :
    (s.inputs.head? = some .reset ∧ step s = .next (hostAction s)) ∨
    (s.inputs.head? ≠ some .reset ∧ s.busy = true ∧ s.latencyLeft = 0 ∧ step s = coreStep s) ∨
    (s.inputs.head? ≠ some .reset ∧ (s.busy = false ∨ s.latencyLeft ≠ 0) ∧ step s = .next (hostAction (coreTick s))) := by
  by_cases h1 : s.inputs.head? = some .reset
  · exact .inl ⟨h1, by simp [step, transition, resetPending, h1]⟩
  · have h1' : resetPending s = false := by simpa [resetPending] using h1
    by_cases h2 : s.busy = true ∧ s.latencyLeft = 0
    · exact .inr (.inl ⟨h1, h2.1, h2.2, by simp [step, transition, h1', completionDue, h2.1, h2.2]⟩)
    · have h3 : s.busy = false ∨ s.latencyLeft ≠ 0 := by
        cases hb : s.busy
        · exact .inl rfl
        · exact .inr fun e => h2 ⟨hb, e⟩
      have h4 : completionDue s = false := by
        rcases h3 with h | h <;> simp [completionDue, h]
      exact .inr (.inr ⟨h1, h3, by simp [step, transition, h1', h4]⟩)

/-- A completion that is due runs the decoded command, or raises IllegalCommand. -/
theorem coreStep_cases (s : State) :
    (∃ i, decode s.pcmd = .ok i ∧ coreStep s = exec i s) ∨
    (∃ r, decode s.pcmd = .error r ∧ coreStep s = .next (complete .illegalCommand s)) := by
  unfold coreStep
  cases decode s.pcmd with
  | ok i => exact .inl ⟨i, rfl, rfl⟩
  | error r => exact .inr ⟨r, rfl, rfl⟩

end Sys2Proof.Machine
end

