-- ==== Sys2Proof/Laws/PerInstr.lean ====
section
/-! SUPPORT. Laws of every command as syntax, one lemma per constructor of Instr. -/

/-- The encoding of a well-formed command selects its own row of the opcode map (30_encoding.md R92, R94). -/
def Sys2Proof.Laws.EncodeSelectsRow.Statement (i : Sys2Proof.Instr) : Prop :=
  i.wf = true → i.row.selects (Sys2Proof.encode i) = true

open Sys2Proof

theorem Sys2Proof.Laws.EncodeSelectsRow.nop : Sys2Proof.Laws.EncodeSelectsRow.Statement .nop := fun _ => rfl

theorem Sys2Proof.Laws.EncodeSelectsRow.init (klen nlen : BitVec 8) :
    Sys2Proof.Laws.EncodeSelectsRow.Statement (.init klen nlen) := fun _ => by
  simp [Instr.row, selects_init_iff, encode]

theorem Sys2Proof.Laws.EncodeSelectsRow.seek (boff : BitVec 6) :
    Sys2Proof.Laws.EncodeSelectsRow.Statement (.seek boff) := fun _ => by
  revert boff; decide

theorem Sys2Proof.Laws.EncodeSelectsRow.xor (len : BitVec 3) :
    Sys2Proof.Laws.EncodeSelectsRow.Statement (.xor len) := fun _ => by
  revert len; decide

theorem Sys2Proof.Laws.EncodeSelectsRow.hash : Sys2Proof.Laws.EncodeSelectsRow.Statement .hash := fun _ => rfl

theorem Sys2Proof.Laws.EncodeSelectsRow.clear : Sys2Proof.Laws.EncodeSelectsRow.Statement .clear := fun _ => rfl
end

