-- ==== Sys2Proof/Laws/Port.lean ====
section
/-! SUPPORT. The register port: which slot an offset selects (10_state.md R44), what a read and a write can do, and that the
host's input leaves the instance registers alone. -/

namespace Sys2Proof.Machine

/-! ### Offsets -/

theorem slotOf_ctrl : ∀ off : BitVec 8, AtSlot off 0x00 → slotOf off = .ctrl := by unfold AtSlot; decide
theorem slotOf_status : ∀ off : BitVec 8, AtSlot off 0x04 → slotOf off = .status := by unfold AtSlot; decide
theorem slotOf_cmd : ∀ off : BitVec 8, AtSlot off 0x08 → slotOf off = .cmd := by unfold AtSlot; decide
theorem slotOf_din : ∀ off : BitVec 8, AtSlot off 0x0C → slotOf off = .din := by unfold AtSlot; decide
theorem slotOf_dout : ∀ off : BitVec 8, AtSlot off 0x10 → slotOf off = .dout := by unfold AtSlot; decide
theorem slotOf_ctrLo : ∀ off : BitVec 8, AtSlot off 0x14 → slotOf off = .ctrLo := by unfold AtSlot; decide
theorem slotOf_ctrHi : ∀ off : BitVec 8, AtSlot off 0x18 → slotOf off = .ctrHi := by unfold AtSlot; decide
theorem slotOf_ctrsetLo : ∀ off : BitVec 8, AtSlot off 0x1C → slotOf off = .ctrsetLo := by unfold AtSlot; decide
theorem slotOf_ctrsetHi : ∀ off : BitVec 8, AtSlot off 0x20 → slotOf off = .ctrsetHi := by unfold AtSlot; decide

theorem slotOf_keyIn : ∀ (i : Fin 8) (off : BitVec 8), AtSlot off (BitVec.ofNat 8 (0x40 + 4 * i.val)) → slotOf off = .keyIn i := by
  unfold AtSlot; decide

theorem slotOf_nonceIn : ∀ (i : Fin 2) (off : BitVec 8), AtSlot off (BitVec.ofNat 8 (0x60 + 4 * i.val)) → slotOf off = .nonceIn i := by
  unfold AtSlot; decide

theorem slotOf_ks : ∀ (i : Fin 16) (off : BitVec 8), AtSlot off (BitVec.ofNat 8 (0x80 + 4 * i.val)) → slotOf off = .ks i := by
  unfold AtSlot; decide +kernel

theorem slotOf_h : ∀ (i : Fin 16) (off : BitVec 8), AtSlot off (BitVec.ofNat 8 (0xC0 + 4 * i.val)) → slotOf off = .h i := by
  unfold AtSlot; decide +kernel

theorem slotOf_reserved : ∀ off : BitVec 8,
    (0x24 ≤ off.toNat ∧ off.toNat < 0x40) ∨ (0x68 ≤ off.toNat ∧ off.toNat < 0x80) → slotOf off = .reserved := by decide

/-- A register's own offset selects it (R44). -/
theorem slotOf_offset (sl : Slot) : slotOf sl.offset = sl := by
  cases sl with
  | keyIn i => revert i; decide
  | nonceIn i => revert i; decide
  | ks i => revert i; decide
  | h i => revert i; decide
  | _ => rfl

/-- Two offsets that differ in off[1:0] alone select the same slot (R61). -/
theorem slotOf_align (off : BitVec 8) : slotOf (off &&& 0xFC) = slotOf off := by revert off; decide

/-! ### Reads and writes -/

/-- What a read does: it records a free value, or the slot's value. -/
theorem portRead_cases (off : BitVec 8) (s : State) :
    (s.busy = true ∧ resultSlot s.pcmd (slotOf off) = true ∧
      portRead off s = { s with reads := Config.freeRead s.draws :: s.reads, draws := s.draws + 1 }) ∨
    ((s.busy = false ∨ resultSlot s.pcmd (slotOf off) = false) ∧
      portRead off s = { s with reads := slotValue s (slotOf off) :: s.reads }) := by
  unfold portRead
  cases hb : s.busy <;> cases hr : resultSlot s.pcmd (slotOf off) <;> simp

theorem portRead_idle (off : BitVec 8) (s : State) (h : s.busy = false) :
    portRead off s = { s with reads := slotValue s (slotOf off) :: s.reads } := by simp [portRead, h]

/-- What a write does: it is dropped with WERR, or it acts. -/
theorem portWrite_cases (off : BitVec 8) (v : Word) (s : State) :
    (s.busy = true ∧ (slotOf off).isFrozen = true ∧ portWrite off v s = { s with werr := true }) ∨
    ((s.busy = false ∨ (slotOf off).isFrozen = false) ∧ portWrite off v s = writeSlot v s (slotOf off)) := by
  unfold portWrite
  cases hb : s.busy <;> cases hr : (slotOf off).isFrozen <;> simp

theorem portWrite_idle (off : BitVec 8) (v : Word) (s : State) (h : s.busy = false) :
    portWrite off v s = writeSlot v s (slotOf off) := by simp [portWrite, h]

/-- The instance registers, DOUT and ERR of two states agree: what no host input but reset moves. -/
structure SameInstance (s t : State) : Prop where
  key : t.key = s.key
  nonce : t.nonce = s.nonce
  ctr : t.ctr = s.ctr
  exh : t.exh = s.exh
  fsm : t.fsm = s.fsm
  ks : t.ks = s.ks
  offset : t.offset = s.offset
  dout : t.dout = s.dout
  err : t.err = s.err

theorem SameInstance.refl (s : State) : SameInstance s s := ⟨rfl, rfl, rfl, rfl, rfl, rfl, rfl, rfl, rfl⟩

theorem SameInstance.trans {s t u : State} (h : SameInstance s t) (g : SameInstance t u) : SameInstance s u :=
  ⟨g.key.trans h.key, g.nonce.trans h.nonce, g.ctr.trans h.ctr, g.exh.trans h.exh, g.fsm.trans h.fsm, g.ks.trans h.ks,
    g.offset.trans h.offset, g.dout.trans h.dout, g.err.trans h.err⟩

/-- The stream invariant speaks of the instance registers and DOUT alone. -/
theorem SameInstance.streamInv {s t : State} (h : SameInstance s t) (hs : StreamInv s) : StreamInv t := by
  unfold StreamInv at *
  rw [h.key, h.nonce, h.ctr, h.exh, h.fsm, h.ks, h.offset, h.dout]
  exact hs

theorem SameInstance.withInputs {s t : State} (h : SameInstance s t) (i : List Input) :
    SameInstance s { t with inputs := i } :=
  ⟨h.key, h.nonce, h.ctr, h.exh, h.fsm, h.ks, h.offset, h.dout, h.err⟩

/-- With no command pending the core does not move. -/
theorem coreTick_of_idle (s : State) (h : s.busy = false) : coreTick s = s := by simp [coreTick, h]

/-- With one pending, the latency counts down and the internal state moves on; nothing else does. -/
theorem coreTick_of_pending (s : State) (h : s.busy = true) :
    coreTick s =
      { s with
        latencyLeft := s.latencyLeft - 1
        work := Config.freeWork s.draws
        roundPos := Config.freeRoundPos s.draws
        draws := s.draws + 1 } := by simp [coreTick, h]

/-- The poll of a WAIT reads STATUS as it is, whether BUSY is 0 or 1: no command's result set holds the STATUS slot (R66). -/
theorem portRead_status (s : State) :
    portRead Slot.status.offset s = { s with reads := statusWord s :: s.reads } := by
  have h : resultSlot s.pcmd .status = false := by
    unfold resultSlot; repeat' split
    all_goals rfl
  unfold portRead
  rw [slotOf_offset, h, Bool.and_false]
  rfl

theorem coreTick_sameInstance (s : State) : SameInstance s (coreTick s) := by
  unfold coreTick; split <;> exact ⟨rfl, rfl, rfl, rfl, rfl, rfl, rfl, rfl, rfl⟩

theorem portRead_sameInstance (off : BitVec 8) (s : State) : SameInstance s (portRead off s) := by
  unfold portRead; split <;> exact ⟨rfl, rfl, rfl, rfl, rfl, rfl, rfl, rfl, rfl⟩

theorem portWrite_sameInstance (off : BitVec 8) (v : Word) (s : State) : SameInstance s (portWrite off v s) := by
  rcases portWrite_cases off v s with ⟨-, -, h⟩ | ⟨-, h⟩ <;> rw [h]
  · exact ⟨rfl, rfl, rfl, rfl, rfl, rfl, rfl, rfl, rfl⟩
  · cases slotOf off <;> exact ⟨rfl, rfl, rfl, rfl, rfl, rfl, rfl, rfl, rfl⟩

/-- A host input that is no reset leaves the instance registers, DOUT and ERR alone. -/
theorem hostAction_sameInstance (s : State) (h : s.inputs.head? ≠ some .reset) : SameInstance s (hostAction s) := by
  unfold hostAction
  cases hi : s.inputs with
  | nil => exact ⟨rfl, rfl, rfl, rfl, rfl, rfl, rfl, rfl, rfl⟩
  | cons x xs =>
    cases x with
    | idle => exact ⟨rfl, rfl, rfl, rfl, rfl, rfl, rfl, rfl, rfl⟩
    | read off => exact (portRead_sameInstance off s).withInputs xs
    | write off v => exact (portWrite_sameInstance off v s).withInputs xs
    | wait =>
      dsimp only
      split
      · exact portRead_sameInstance _ s
      · exact (portRead_sameInstance _ s).withInputs xs
    | waitIrq => dsimp only; split <;> exact ⟨rfl, rfl, rfl, rfl, rfl, rfl, rfl, rfl, rfl⟩
    | reset => simp [hi] at h

/-- A reset input resets the block and is consumed. -/
theorem hostAction_reset (s : State) (h : s.inputs.head? = some .reset) :
    ∃ rest, s.inputs = .reset :: rest ∧ hostAction s = { applyReset s with inputs := rest } := by
  cases hi : s.inputs with
  | nil => simp [hi] at h
  | cons x xs =>
    simp [hi] at h
    subst h
    exact ⟨xs, rfl, by unfold hostAction; rw [hi]⟩

end Sys2Proof.Machine
end

