-- ==== Sys2Proof/Machine/Assembler.lean ====
section
/-! DEFINITION. The assembler syntax of a command (30_encoding.md R101): one line of characters to an instruction, or none
where the assembler refuses it. The lexical points R101 leaves open are log 15. -/

namespace Sys2Proof.Machine

/-- What a line is made of. -/
inductive Token where
  | text (cs : List Char)
  | comma
deriving DecidableEq, Repr

/-- The tokens of a line: words, and commas; blanks separate (log 15). `cur` holds the word being read, last character first. -/
def tokens : List Char → List Char → List Token
  | [], cur => if cur = [] then [] else [.text cur.reverse]
  | c :: cs, cur =>
    let done : List Token := if cur = [] then [] else [.text cur.reverse]
    if c = ' ' then done ++ tokens cs []
    else if c = ',' then done ++ .comma :: tokens cs []
    else tokens cs (c :: cur)

/-- The value of a digit in the given base, 10 or 16. -/
def digitValue (base : Nat) (c : Char) : Option Nat :=
  let n := c.toNat
  let v :=
    if 48 ≤ n ∧ n ≤ 57 then n - 48
    else if 97 ≤ n ∧ n ≤ 102 then n - 87
    else if 65 ≤ n ∧ n ≤ 70 then n - 55
    else base
  if v < base then some v else none

/-- Digits in a base, from the left, on the value read so far. -/
def digitsValue (base : Nat) : List Char → Nat → Option Nat
  | [], acc => some acc
  | c :: cs, acc =>
    match digitValue base c with
    | some d => digitsValue base cs (acc * base + d)
    | none => none

/-- A number: decimal, or hexadecimal with `0x` (R101). -/
def numberValue : List Char → Option Nat
  | [] => none
  | '0' :: 'x' :: c :: cs => digitsValue 16 (c :: cs) 0
  | cs => digitsValue 10 cs 0

/-- A number that fits a field of values 0 to max; the assembler refuses another (R101). -/
def fieldValue (max : Nat) (cs : List Char) : Option Nat :=
  match numberValue cs with
  | some n => if n ≤ max then some n else none
  | none => none

/-- `INIT klen, nlen`, KLEN and NLEN 0..255 (R101). -/
def assembleInit (klen nlen : List Char) : Option Instr :=
  match fieldValue 255 klen, fieldValue 255 nlen with
  | some k, some n => some (.init (BitVec.ofNat 8 k) (BitVec.ofNat 8 n))
  | _, _ => none

/-- `SEEK boff`, BOFF 0..63 (R101). -/
def assembleSeek (boff : List Char) : Option Instr :=
  (fieldValue 63 boff).map fun n => .seek (BitVec.ofNat 6 n)

/-- `XOR len`, LEN 0..4 (R101). -/
def assembleXor (len : List Char) : Option Instr :=
  (fieldValue 4 len).map fun n => .xor (BitVec.ofNat 3 n)

/-- The assembler (R101). -/
def assemble (line : List Char) : Option Instr :=
  match tokens line [] with
  | [.text ['N', 'O', 'P']] => some .nop
  | [.text ['I', 'N', 'I', 'T']] => some (.init 32 8)
  | [.text ['I', 'N', 'I', 'T'], .text k, .comma, .text n] => assembleInit k n
  | [.text ['S', 'E', 'E', 'K'], .text o] => assembleSeek o
  | [.text ['X', 'O', 'R'], .text l] => assembleXor l
  | [.text ['H', 'A', 'S', 'H']] => some .hash
  | [.text ['C', 'L', 'E', 'A', 'R']] => some .clear
  | _ => none

end Sys2Proof.Machine
end

