-- ==== Sys2Proof/Tests/Slice0.lean ====
section
/-! SUPPORT. The model's own tests. Expected results are those of spec/95_test_vectors.md, named by their ids, or the words and
values the rules give. Each theorem on states is about one step. Then, for every statement with hypotheses, a witness that
meets them. -/

namespace Sys2Proof.Tests

open Sys2Proof Sys2Proof.Machine

/-! ### Helpers -/

/-- The outcome is a next state of which p holds. -/
def nextIs (o : Host.Outcome State Fault Refusal) (p : State → Bool) : Bool :=
  match o with
  | .next t => p t
  | .fault _ => false
  | .refused _ => false

/-- One step that completes the command word w on s. -/
def complete1 (w : Nat) (s : State) (p : State → Bool) : Bool := nextIs (step (s.withFetchWord 32 w)) p

/-- The state after `DO INIT 32, 8` with a zero key and nonce, acknowledged (V-I1). -/
def initState : State := { State.reset with fsm := .initialized }

/-- Sixteen words, word i equal to i (95_test_vectors.md section 2.3, input I). -/
def wordsI : Words16 := ⟨0, 1, 2, 3, 4, 5, 6, 7, 8, 9, 10, 11, 12, 13, 14, 15⟩

/-- One and fifteen zeros (section 2.3, input E0). -/
def wordsE0 : Words16 := ⟨1, 0, 0, 0, 0, 0, 0, 0, 0, 0, 0, 0, 0, 0, 0, 0⟩

/-- The key 01..20 and the nonce 01..08 of program P2. -/
def keyP2 : Words8 :=
  ⟨0x04030201, 0x08070605, 0x0c0b0a09, 0x100f0e0d, 0x14131211, 0x18171615, 0x1c1b1a19, 0x201f1e1d⟩
def nonceP2 : Words2 := ⟨0x04030201, 0x08070605⟩

/-- V-B1, the zero-key block 0. -/
def blockB1 : Words16 :=
  ⟨0x5bf6979a, 0x1b724c9b, 0x21670a96, 0xd4a8fc45, 0xf9672ee3, 0x79a91e11, 0x26489cce, 0xe6ee6a80,
   0xdac0e93d, 0x1ef9d72b, 0x9b63b2bc, 0x25c689f9, 0x38bf291b, 0xdc9b9ad3, 0x4b5fc5e7, 0x392ac12a⟩

/-- V-B5, the zero-key block 2^64 - 1. -/
def blockB5 : Words16 :=
  ⟨0x6b3bdcaa, 0x1bbd8b2f, 0x66b704fa, 0x3410cbe9, 0xc616559c, 0xa716e33a, 0x1531de2a, 0x7b606d59,
   0xa23148bd, 0xff279339, 0x0ccc1d6c, 0x39879fad, 0xe9efe9b4, 0x051a8a4a, 0x161e7c6a, 0xdd60de7d⟩

/-- In block 0 of the zero key, 62 bytes consumed (V-S3's end state, acknowledged). -/
def at62 : State := { State.reset with fsm := .generating, ks := blockB1, ctr := 1, offset := 62 }

/-- In the last block of the zero key, 60 bytes consumed (V-S5's end state, acknowledged). -/
def lastBlock : State := { State.reset with fsm := .generating, ks := blockB5, ctr := 0, exh := true, offset := 60 }

/-- The dead instance of program P3 after step 9. -/
def deadState : State := { lastBlock with fsm := .overflow, offset := 64, dout := 0xdd60de7d, err := 3 }

/-- A command is pending and its completion is due. -/
def due (w : Word) : State := { State.reset with busy := true, pcmd := w }

/-- A command is pending for two more steps. -/
def pending (w : Word) : State := { State.reset with busy := true, pcmd := w, latencyLeft := 2 }

/-! ### WellFormed: the one check, with ill-formed terms it refuses -/

theorem test_wf_refuses_long_xor :
    (Instr.xor 5).wf = false ∧ (Instr.xor 6).wf = false ∧ (Instr.xor 7).wf = false ∧ (Instr.xor 4).wf = true := by decide

/-! ### Decoding: words bit by bit from the patterns of R94 -/

theorem test_decode_nop : decode 0b00000000000000000000000000000000 = .ok .nop := by rfl
theorem test_decode_init : decode 0b00000000000011000001000000000001 = .ok (.init 16 12) := by rfl
theorem test_decode_seek : decode 0b00000000000000000011111000000010 = .ok (.seek 62) := by rfl
theorem test_decode_xor : decode 0b00000000000000000000001100000011 = .ok (.xor 3) := by rfl
theorem test_decode_hash : decode 0b00000000000000000000000000000100 = .ok .hash := by rfl
theorem test_decode_clear : decode 0b00000000000000000000000000000101 = .ok .clear := by rfl

/-- V-E2, V-E7, V-E10, V-E13 to V-E17. -/
theorem test_decode_illegal :
    decode 0x00000100 = .error .mustBeZero ∧ decode 0x00004002 = .error .mustBeZero ∧
    decode 0x00000503 = .error .xorLength ∧ decode 0x00000006 = .error .reservedOpcode ∧
    decode 0x000000ff = .error .reservedOpcode ∧ decode 0x01000000 = .error .mustBeZero ∧
    decode 0x01000403 = .error .mustBeZero ∧ decode 0x00010004 = .error .mustBeZero := by
  refine ⟨?_, ?_, ?_, ?_, ?_, ?_, ?_, ?_⟩ <;> rfl

/-- The words of R94 and of programs P3 and P4. -/
theorem test_encode_listed_words :
    encode (.init 32 8) = 0x00082001 ∧ encode (.xor 4) = 0x00000403 ∧ encode (.seek 60) = 0x00003c02 ∧
    encode (.seek 62) = 0x00003e02 ∧ encode .hash = 0x00000004 ∧ encode .clear = 0x00000005 := by decide

theorem test_decode_table_word :
    decodeTableWord 32 0x00082001 = some (.init 32 8) ∧ decodeTableWord 32 6 = none ∧
    decodeTableWord 8 0x105 = some .clear := by decide

/-! ### Assembler (R101) -/

theorem test_assemble_init :
    assemble "INIT".toList = some (.init 32 8) ∧ assemble "INIT 16, 0x0C".toList = some (.init 16 12) ∧
    assemble "INIT 256, 8".toList = none := by decide

theorem test_assemble_seek_xor :
    assemble "SEEK 63".toList = some (.seek 63) ∧ assemble "SEEK 64".toList = none ∧
    assemble "XOR 4".toList = some (.xor 4) ∧ assemble "XOR 5".toList = none := by decide

/-! ### Datapath -/

/-- V-RA1, V-RA4, V-RA6. -/
theorem test_rotate_add :
    rotateAdd 0xffffffff 1 7 = 0 ∧ rotateAdd 0x12345678 0x9abcdef0 13 = 0x26ad159e ∧ rotateAdd 0x01000000 0 9 = 2 := by decide

/-- V-Q6. -/
theorem test_quarter_round :
    quarterRound ⟨0xe7e8c006, 0xc4f9417d, 0x6479b4b2, 0x68c67137⟩ =
      ⟨0xe876d72b, 0x9361dfd5, 0xf1460244, 0x948541a3⟩ := by decide

/-- V-C2. -/
theorem test_column_round :
    columnRound wordsI =
      ⟨0x20560736, 0xc3e2c001, 0x00103002, 0x00000d03, 0x00000604, 0x703b0fa6, 0x07020004, 0x001a2407,
       0x000c0808, 0x00000309, 0xc0181c42, 0x46214008, 0x81c1800d, 0x00061c0d, 0x0000080e, 0x903d18e2⟩ := by decide

/-- V-R2. -/
theorem test_row_round :
    rowRound wordsI =
      ⟨0x881581cd, 0x00000181, 0x00030202, 0x60706003, 0x2351a005, 0xd8308d6f, 0x00000486, 0x00091607,
       0x00132a08, 0x6672600b, 0x284d9a1c, 0x0000098b, 0x00000e8c, 0x001d360d, 0xa893200d, 0x586aa2ce⟩ := by decide

/-- V-D2. -/
theorem test_double_round :
    doubleRound wordsI =
      ⟨0x5ff84399, 0xe8e8dc91, 0x7dd7be10, 0x135421db, 0x96c9d24f, 0xbdbf75d0, 0x1a88d53c, 0x87d3e112,
       0x8e085c1c, 0xe840980f, 0x10b5c561, 0x4a2ee5e8, 0x9f51f845, 0x1e245252, 0xc952ffa0, 0xd7f6853f⟩ := by decide

/-- V-P1. -/
theorem test_permute :
    permute wordsE0 =
      ⟨0x1cd2c5b5, 0x12e00046, 0x30c96673, 0x0cf7b89c, 0x01c1035c, 0xcfe87193, 0xf0bc08ac, 0x8fbf36eb,
       0x1f424d57, 0x48054223, 0xf92f5c52, 0x973f4fc7, 0xd3b4c91b, 0x55e794b5, 0x154e3d69, 0x16f5a6a3⟩ := by decide

/-- V-L2. -/
theorem test_layout :
    layout keyP2 nonceP2 0x0706050403020100 =
      ⟨0x61707865, 0x04030201, 0x08070605, 0x0c0b0a09, 0x100f0e0d, 0x3320646e, 0x04030201, 0x08070605,
       0x03020100, 0x07060504, 0x79622d32, 0x14131211, 0x18171615, 0x1c1b1a19, 0x201f1e1d, 0x6b206574⟩ := by decide

/-- V-B6, the first 8 bytes. -/
theorem test_serialize_block :
    (serialize (block keyP2 nonceP2 0)).take 8 = [0x67, 0xd3, 0xc3, 0xa7, 0x0c, 0xf9, 0x35, 0x2b] := by decide

/-! ### Port -/

/-- V-M1 to V-M5: one read on the reset state. -/
theorem test_reads_at_reset :
    (portRead 0x04 State.reset).reads = [0x00400000] ∧ (portRead 0x07 State.reset).reads = [0x00400000] ∧
    (portRead 0x40 (portWrite 0x40 0xdeadbeef State.reset)).reads = [0] ∧
    (portRead 0x24 State.reset).reads = [0] ∧ (portRead 0x08 State.reset).reads = [0] := by decide

/-- V-M6. -/
theorem test_cmd_write_sets_busy : statusWord (portWrite 0x08 0 State.reset) = 0x00400001 := by rfl

/-- V-M7: DIN stays 0, the CLEAR is dropped, WERR = 1, IE = 1. -/
theorem test_busy_writes :
    (let t := portWrite 0x00 1 (portWrite 0x08 5 (portWrite 0x0C 5 (due 0)))
     t.din == 0 && t.pcmd == 0 && t.ie && statusWord t == 0x00400005) = true := by decide

/-- V-M9. -/
theorem test_status_write_acknowledges :
    (let t := portWrite 0x04 6 { State.reset with done := true, werr := true, ie := true }
     statusWord t == 0x00400000 && !irq t) = true := by decide

/-- V-M10. -/
theorem test_read_only_writes :
    portWrite 0x10 7 (due 0) = due 0 ∧ portWrite 0x8C 7 (due 0) = due 0 ∧ portWrite 0x14 7 (due 0) = due 0 := by decide

/-- P1, steps 1, 3 and 5, and P3, steps 2 to 4: the transactions the pseudo-instructions expand to. -/
theorem test_pseudo_instructions :
    hostKS4 = [.write 0x0C 0, .write 0x08 0x00000403, .wait, .read 0x10] ∧
    hostDO (.init 32 8) = [.write 0x08 0x00082001, .wait] ∧
    hostStartAt 0xffffffffffffffff 60 = [.write 0x1C 0xffffffff, .write 0x20 0xffffffff, .write 0x08 0x00003c02, .wait] ∧
    (hostLOADKEY (fun j => BitVec.ofNat 8 (j.val + 1))).take 2 = [.write 0x40 0x04030201, .write 0x44 0x08070605] := by decide

/-! ### One completion step for each command -/

/-- V-O1. -/
theorem test_nop : complete1 0 State.reset (fun t => statusWord t == 0x00400002 && t.err == 0) = true := by decide

/-- V-M8: the dropped write stays recorded, and IRQ rises. -/
theorem test_nop_interrupt :
    complete1 0 { State.reset with ie := true, werr := true } (fun t => statusWord t == 0x00400006 && irq t) = true := by decide

/-- V-I1 with P2's key and nonce. -/
theorem test_init :
    complete1 0x00082001 { State.reset with keyIn := keyP2, nonceIn := nonceP2 }
      (fun t => statusWord t == 0x00400012 && t.key == keyP2 && t.nonce == nonceP2 && t.keyIn == keyP2 && t.ctr == 0) = true := by
  decide

/-- V-I4: the key length is checked first. -/
theorem test_init_wrong_lengths :
    complete1 0x000c1001 State.reset (fun t => statusWord t == 0x00400102 && t.fsm == .uninit) = true := by decide

/-- V-S5. -/
theorem test_seek_last_block :
    complete1 0x00003c02 { initState with ctrsetLo := 0xffffffff, ctrsetHi := 0xffffffff }
      (fun t => statusWord t == 0x003c002a && t.ctr == 0 && t.ks == blockB5) = true := by decide

/-- V-S4: SEEK in GENERATING. -/
theorem test_seek_generating :
    complete1 0x00000002 { initState with fsm := .generating, ks := blockB1, ctr := 1, offset := 1 }
      (fun t => statusWord t == 0x00010422 && t.ctr == 1) = true := by decide

/-- V-X7: two bytes of block 0, then two of block 1. -/
theorem test_xor_straddles :
    complete1 0x00000403 at62
      (fun t => t.dout == 0xeaab392a && statusWord t == 0x00020022 && t.ctr == 2) = true := by decide

/-- V-X12: two bytes left, four requested, EXH = 1. -/
theorem test_xor_overflow :
    complete1 0x00000403 { lastBlock with offset := 62 }
      (fun t => t.dout == 0 && statusWord t == 0x003e033a && t.ctr == 0) = true := by decide

/-- V-H3: HASH of a layout is its block. -/
theorem test_hash :
    complete1 0x00000004
      { State.reset with h := ⟨0x61707865, 0, 0, 0, 0, 0x3320646e, 0, 0, 0, 0, 0x79622d32, 0, 0, 0, 0, 0x6b206574⟩ }
      (fun t => statusWord t == 0x00400002 && t.h == blockB1) = true := by decide

/-- HASH in OVERFLOW succeeds and leaves the instance (R162). -/
theorem test_hash_in_overflow :
    complete1 0x00000004 deadState (fun t => t.fsm == .overflow && t.err == 0 && t.ks == blockB5 && t.h == Words16.zero) = true := by
  decide

/-- V-K1 from P3's dead instance: everything but CTRL.IE and WERR back to reset values. -/
theorem test_clear :
    complete1 0x00000005 { deadState with ie := true, h := wordsI, keyIn := keyP2, din := 5 }
      (fun t => statusWord t == 0x00400002 && t.ie && t.h == Words16.zero && t.keyIn == Words8.zero && t.ks == Words16.zero &&
        t.din == 0 && t.dout == 0) = true := by decide

/-- CLEAR keeps WERR (R143). -/
theorem test_clear_keeps_werr :
    complete1 0x00000005 { State.reset with werr := true } (fun t => statusWord t == 0x00400006) = true := by decide

/-- V-O2. -/
theorem test_illegal_word : complete1 0x00000100 State.reset (fun t => statusWord t == 0x00400502) = true := by decide

/-- A reset comes before a completion that is due (R188, R210). -/
theorem test_reset_before_completion :
    nextIs (step { due 5 with inputs := [.reset], ie := true, h := wordsI })
      (fun t => statusWord t == 0x00400000 && !t.ie && t.h == Words16.zero && t.inputs == []) = true := by decide

/-- WAIT reads STATUS once a step and stays while BUSY = 1 (R102). -/
theorem test_wait_polls :
    nextIs (step { pending 0 with inputs := [.wait] })
      (fun t => t.reads == [0x00400001] && t.inputs == [.wait] && t.latencyLeft == 1) = true := by decide

/-! ### Witnesses: the hypotheses of each statement are met -/

theorem test_witness_encoding : (Instr.xor 4).wf = true ∧ decode 0x00003f02 = .ok (.seek 63) := by exact ⟨rfl, rfl⟩

/-- IllegalWordRaisesIllegalCommand: one word for each of its cases, at the edge of its field, and what the decoder says. -/
theorem test_witness_illegal_words :
    6 ≤ ((0x00000006 : Word).extractLsb' 0 8).toNat ∧ (0x01000000 : Word).extractLsb' 24 8 ≠ 0 ∧
    (0x00000100 : Word).extractLsb' 8 8 ≠ 0 ∧ (0x00010004 : Word).extractLsb' 16 8 ≠ 0 ∧
    ((0x00004002 : Word).extractLsb' 8 8).extractLsb' 6 2 ≠ 0 ∧ ((0x00000803 : Word).extractLsb' 8 8).extractLsb' 3 5 ≠ 0 ∧
    5 ≤ (((0x00000503 : Word).extractLsb' 8 8).extractLsb' 0 3).toNat := by decide

theorem test_witness_illegal_reasons :
    decode (due 0x00000006).pcmd = .error .reservedOpcode ∧ decode (due 0x00800005).pcmd = .error .mustBeZero ∧
    decode (due 0x00010002).pcmd = .error .mustBeZero ∧ decode (due 0x00000803).pcmd = .error .mustBeZero ∧
    decode (due 0x00000503).pcmd = .error .xorLength := by exact ⟨rfl, rfl, rfl, rfl, rfl⟩

theorem test_witness_rotation : (0 < 1 ∧ 1 < 32) ∧ (0 < 31 ∧ 31 < 32) := by decide

/-- RoundsMixAllFourGroups and SerializationIsLittleEndian: a group, a byte of a word. -/
theorem test_witness_groups :
    ((15, 3, 7, 11) : Fin 16 × Fin 16 × Fin 16 × Fin 16) ∈ [((0 : Fin 16), (4 : Fin 16), (8 : Fin 16), (12 : Fin 16)), (15, 3, 7, 11)] ∧
    3 < 4 := by decide

/-- CounterAdvancesModulo64Bits: a state with EXH = 0 whose refill wraps, and one whose refill does not. -/
theorem test_witness_refill :
    ({ initState with ctr := 0xffffffffffffffff } : State).exh = false ∧ initState.exh = false := by decide

/-- IdleReadsFollowTheRegisterMap, IdleWritesFollowTheRegisterMap: an idle state, and an offset for each clause. -/
theorem test_witness_idle_offsets :
    State.reset.busy = false ∧ AtSlot 0x03 0x00 ∧ AtSlot 0x04 0x04 ∧ AtSlot 0x0B 0x08 ∧ AtSlot 0x0C 0x0C ∧ AtSlot 0x13 0x10 ∧
    AtSlot 0x14 0x14 ∧ AtSlot 0x1B 0x18 ∧ AtSlot 0x1C 0x1C ∧ AtSlot 0x23 0x20 ∧
    (0x24 ≤ (0x24 : BitVec 8).toNat ∧ (0x3F : BitVec 8).toNat < 0x40) ∧
    (0x40 ≤ (0x40 : BitVec 8).toNat ∧ (0x5F : BitVec 8).toNat < 0x60) ∧
    AtSlot 0x5F (BitVec.ofNat 8 (0x40 + 4 * (7 : Fin 8).val)) ∧ AtSlot 0x67 (BitVec.ofNat 8 (0x60 + 4 * (1 : Fin 2).val)) ∧
    (0x68 ≤ (0x68 : BitVec 8).toNat ∧ (0x7F : BitVec 8).toNat < 0x80) ∧
    AtSlot 0xBF (BitVec.ofNat 8 (0x80 + 4 * (15 : Fin 16).val)) ∧ AtSlot 0xC0 (BitVec.ofNat 8 (0xC0 + 4 * (0 : Fin 16).val)) ∧
    AtSlot 0xFF (BitVec.ofNat 8 (0xC0 + 4 * (15 : Fin 16).val)) := by unfold AtSlot; decide

/-- BusyWritesAreDropped and ReservedOffsetsReadZeroIgnoreWrites: a busy state, and an offset for each clause. -/
theorem test_witness_busy_offsets :
    (due 0).busy = true ∧ AtSlot 0x08 0x08 ∧ AtSlot 0x0F 0x0C ∧ AtSlot 0x1C 0x1C ∧ AtSlot 0x20 0x20 ∧
    (0x40 ≤ (0x67 : BitVec 8).toNat ∧ (0x67 : BitVec 8).toNat < 0x68) ∧ 0xC0 ≤ (0xC0 : BitVec 8).toNat ∧
    AtSlot 0x03 0x00 ∧ AtSlot 0x04 0x04 ∧ AtSlot 0x10 0x10 ∧ AtSlot 0x17 0x14 ∧ AtSlot 0x18 0x18 ∧
    (0x24 ≤ (0x3F : BitVec 8).toNat ∧ (0x3F : BitVec 8).toNat ≤ 0x3F) ∧
    (0x68 ≤ (0x68 : BitVec 8).toNat ∧ (0xBF : BitVec 8).toNat < 0xC0) ∧
    (0x68 ≤ (0x7F : BitVec 8).toNat ∧ (0x7F : BitVec 8).toNat ≤ 0x7F) := by unfold AtSlot; decide

/-- BusyReadsOfResultsAreFree: a pending command of each kind, and an offset in and one out of the slots it writes. -/
theorem test_witness_busy_reads :
    (due 0).busy = true ∧ decode (due 0).pcmd = .ok .nop ∧ decode (due 0x00082001).pcmd = .ok (.init 32 8) ∧
    decode (due 0x00000502).pcmd = .ok (.seek 5) ∧ decode (due 0x00000403).pcmd = .ok (.xor 4) ∧
    decode (due 4).pcmd = .ok .hash ∧ decode (due 5).pcmd = .ok .clear ∧
    AtSlot 0x10 0x10 ∧ AtSlot 0x18 0x18 ∧ (0x80 ≤ (0xBF : BitVec 8).toNat ∧ (0xBF : BitVec 8).toNat < 0xC0) ∧
    ¬ (0xC0 ≤ (0xBF : BitVec 8).toNat) ∧ 0xC0 ≤ (0xFF : BitVec 8).toNat ∧
    (0x0C ≤ (0x0C : BitVec 8).toNat ∧ (0x23 : BitVec 8).toNat < 0x24) ∧
    (0x40 ≤ (0x40 : BitVec 8).toNat ∧ (0x67 : BitVec 8).toNat < 0x68) := by
  unfold AtSlot; refine ⟨rfl, rfl, rfl, rfl, rfl, rfl, rfl, ?_⟩; decide

/-- KeyCannotBeReadBack: a step of each of its three kinds. -/
theorem test_witness_key_secret :
    State.reset.busy = false ∧ (pending 0).latencyLeft ≠ 0 ∧
    ({ due 0 with inputs := [.reset] } : State).inputs.head? = some .reset := by decide

/-- IdleStepPerformsTheHostInput: an idle and a pending state with each input first. -/
theorem test_witness_idle_inputs :
    State.reset.busy = false ∧ State.reset.inputs = [] ∧
    (pending 4).busy = true ∧ (pending 4).latencyLeft ≠ 0 ∧ (pending 4).inputs = [] ∧
    (∀ x ∈ [Input.idle, .read 0xFF, .write 0x08 5, .wait, .waitIrq],
      ({ State.reset with inputs := [x, .idle] } : State).inputs = x :: [.idle] ∧
      ({ pending 4 with inputs := [x, .idle] } : State).inputs = x :: [.idle]) ∧
    ({ State.reset with done := true, ie := true } : State).done = true := by decide

/-- StepRunsTheDecodedCommand. -/
theorem test_witness_step :
    (due 0x00000403).inputs.head? ≠ some .reset ∧ (due 0x00000403).busy = true ∧ (due 0x00000403).latencyLeft = 0 ∧
    decode (due 0x00000403).pcmd = .ok (.xor 4) := by exact ⟨by decide, rfl, rfl, rfl⟩

/-- FailedCommandWritesNoResult: a failure of either form. -/
theorem test_witness_failures :
    nextIs (exec (.seek 0) State.reset) (fun t => t.err != 0) = true ∧
    nextIs (exec (.xor 4) { lastBlock with offset := 61 }) (fun t => t.err != 0 && t.fsm == .overflow) = true ∧
    (3 : BitVec 3).toNat ≤ 64 - 61 ∧ (4 : BitVec 3).toNat > 64 - 61 := by decide

/-- CommandsKeepTheOtherRegisters and OtherSlotsReadAsBefore: commands of each clause answer a next state. -/
theorem test_witness_frames :
    nextIs (exec (.seek 1) initState) (fun _ => true) = true ∧ nextIs (exec .hash initState) (fun _ => true) = true ∧
    nextIs (exec .nop initState) (fun _ => true) = true ∧ nextIs (exec (.init 32 8) initState) (fun _ => true) = true ∧
    slotOf 0x0C ≠ .status ∧ resultSlot (encode (.xor 4)) (slotOf 0x0C) = false := by decide

/-- NopChangesNothingElse: a pending word with OP 0 that is no NOP. -/
theorem test_witness_nop_word : (due 0x00000100).pcmd.extractLsb' 0 8 = 0 ∧ (due 0x80000000).pcmd.extractLsb' 0 8 = 0 ∧
    (due 0x00000100).pcmd ≠ 0 ∧ (due 0x80000000).pcmd ≠ 0 := by decide

/-- InitRefusesOtherLengths: the lengths next to the legal ones. -/
theorem test_witness_lengths :
    (31 : BitVec 8).toNat ≠ 32 ∧ (33 : BitVec 8).toNat ≠ 32 ∧ (32 : BitVec 8).toNat = 32 ∧ (7 : BitVec 8).toNat ≠ 8 ∧
    (9 : BitVec 8).toNat ≠ 8 := by decide

/-- SeekSetsTheStreamPosition, SeekRefusedOutsideInitialized: each FSM state, and the two forms of BOFF. -/
theorem test_witness_seek :
    initState.fsm = .initialized ∧ (0 : BitVec 6) = 0 ∧ (63 : BitVec 6) ≠ 0 ∧ (1 : BitVec 6) ≠ 0 ∧
    State.reset.fsm = .uninit ∧ at62.fsm = .generating ∧ deadState.fsm = .overflow := by decide

/-- ClearZeroizes and HashAppliesTheCore: WERR = 0, a return to UNINIT, and H loaded with a layout. -/
theorem test_witness_clear_hash :
    nextIs (step { due 5 with fsm := .overflow }) (fun t => t.fsm == .uninit) = true ∧
    nextIs (step { initState with inputs := [.reset] }) (fun t => t.fsm == .uninit) = true ∧
    State.reset.werr = false ∧ initState.fsm ≠ .uninit ∧ nextIs (exec .clear initState) (fun t => t.fsm == .uninit) = true ∧ ({ State.reset with h := layout keyP2 nonceP2 7 } : State).h = layout keyP2 nonceP2 7 := by decide

/-- XorErrorsInOrder: each clause, at the edges of LEN and of the bytes left. -/
theorem test_witness_xor_errors :
    (5 : BitVec 3).toNat > 4 ∧ (4 : BitVec 3).toNat ≤ 4 ∧ State.reset.fsm = .uninit ∧ deadState.fsm = .overflow ∧
    lastBlock.fsm = .generating ∧ lastBlock.exh = true ∧ (4 : BitVec 3).toNat > 64 - ({ lastBlock with offset := 61 } : State).offset.val := by
  decide

/-- XorCombinesDataWithKeystream, FsmTransitionTable: XOR that fits the buffer exactly, that straddles, of no byte, and on
the last block. -/
theorem test_witness_xor :
    (at62.fsm = .generating ∧ ¬ ((2 : BitVec 3).toNat > 64 - at62.offset.val ∧ at62.exh = true)) ∧
    at62.offset.val + (2 : BitVec 3).toNat ≤ 64 ∧ at62.offset.val + (3 : BitVec 3).toNat > 64 ∧ at62.exh = false ∧
    (0 : BitVec 3).toNat ≤ 64 - initState.offset.val ∧ initState.fsm = .initialized ∧
    ¬ ((4 : BitVec 3).toNat > 64 - lastBlock.offset.val ∧ lastBlock.exh = true) ∧
    (0 < (2 : BitVec 3).toNat ∧ (2 : BitVec 3).toNat ≤ 2 ∧ 2 < 4) := by decide

/-- FsmTransitionTable and StepCompletesAnIllegalWord: the row of the illegal word, and of INIT's errors. -/
theorem test_witness_fsm_rows :
    (due 6).inputs.head? ≠ some .reset ∧ (due 6).busy = true ∧ (due 6).latencyLeft = 0 ∧
    decode (due 6).pcmd = .error .reservedOpcode ∧ (31 : BitVec 8).toNat ≠ 32 ∧ (9 : BitVec 8).toNat ≠ 8 := by
  exact ⟨by decide, rfl, rfl, rfl, by decide, by decide⟩

/-- FsmTransitionTable: the two INITIALIZED cells of XOR that R145 says cannot occur, LEN >= 1 with the bytes in the buffer and
LEN >= 1 with too few and EXH = 1 (log 17). -/
theorem test_witness_fsm_unreachable_cells :
    (let s : State := { initState with offset := 63 }
     s.fsm = .initialized ∧ 1 ≤ (1 : BitVec 3).toNat ∧ (1 : BitVec 3).toNat ≤ 4 ∧ (1 : BitVec 3).toNat ≤ 64 - s.offset.val) ∧
    (let s : State := { initState with exh := true }
     s.fsm = .initialized ∧ (1 : BitVec 3).toNat ≤ 4 ∧ (1 : BitVec 3).toNat > 64 - s.offset.val ∧ s.exh = true) := by decide

/-- StateErrorsAreRaisedExactlyWhere: a command that ends with each code, in each of its cases. -/
theorem test_witness_state_errors :
    nextIs (exec (.xor 4) { lastBlock with offset := 61 }) (fun t => t.err == 3) = true ∧
    nextIs (exec (.xor 0) deadState) (fun t => t.err == 3) = true ∧ nextIs (exec (.seek 0) deadState) (fun t => t.err == 3) = true ∧
    nextIs (exec (.xor 0) State.reset) (fun t => t.err == 4) = true ∧
    nextIs (exec (.seek 63) State.reset) (fun t => t.err == 4) = true ∧
    nextIs (exec (.seek 0) at62) (fun t => t.err == 4) = true ∧ nextIs (exec (.xor 2) at62) (fun t => t.err == 0) = true := by decide

/-- A state of the invariant in GENERATING (XorFollowsTheKeystream, RemainingCapacityCountsDown,
StreamingIsConsistentForEverySplit, EveryStepKeepsTheInvariant): 2 bytes left in block 0. -/
theorem test_witness_invariant_generating : BlockInv at62 ∧ Streaming at62 :=
  ⟨⟨⟨by decide, by decide, by decide⟩, by decide, by decide, by decide⟩, .inr rfl⟩

/-- A state of the invariant in INITIALIZED. -/
theorem test_witness_invariant_initialized : BlockInv initState ∧ Streaming initState :=
  ⟨⟨⟨rfl, rfl, rfl, rfl⟩, by decide, by decide, by decide⟩, .inl rfl⟩

/-- A state of the invariant in the last block, with EXH = 1 (NoBlockAfterExhaustion). -/
theorem test_witness_invariant_last_block : BlockInv lastBlock ∧ Streaming lastBlock ∧ lastBlock.exh = true :=
  ⟨⟨⟨by decide, by decide, by decide⟩, by decide, by decide, by decide⟩, .inr rfl, rfl⟩

/-- XorFollowsTheKeystream and RemainingCapacityCountsDown: the last four bytes, and one byte after them. -/
theorem test_witness_remaining :
    (4 : BitVec 3).toNat ≤ remaining lastBlock ∧ remaining { lastBlock with offset := 64 } < (1 : BitVec 3).toNat ∧
    BlockInv { lastBlock with offset := 64 } ∧ Streaming { lastBlock with offset := 64 } :=
  ⟨by decide, by decide, ⟨⟨by decide, by decide, by decide⟩, by decide, by decide, by decide⟩, .inr rfl⟩

/-- StreamingIsConsistentForEverySplit: requests of 3, 0 and 1 bytes that use up the last block. -/
theorem test_witness_split :
    (∀ r ∈ ([(3, 0x00112233), (0, 0), (1, 0x000000ff)] : List (BitVec 3 × Word)), r.1.toNat ≤ 4) ∧
    requestLength [(3, 0x00112233), (0, 0), (1, 0x000000ff)] ≤ remaining lastBlock :=
  ⟨by simp, by simp [requestLength, remaining, lastBlock]⟩

/-- DecryptionUndoesEncryption: two instances at the same position, and a run of the first (P2's first request). -/
theorem test_witness_decryption :
    let s : State := { initState with key := keyP2, nonce := nonceP2 }
    let u : State := { s with din := 7 }
    BlockInv s ∧ BlockInv u ∧ Streaming s ∧ Streaming u ∧ u.key = s.key ∧ u.nonce = s.nonce ∧ streamPos u = streamPos s ∧
      (∀ r ∈ ([(4, 0x6c6c6548)] : List (BitVec 3 × Word)), r.1.toNat ≤ 4) ∧
      (xorRun [(4, 0x6c6c6548)] s).map Prod.fst = some [0xcbafb62f] := by
  refine ⟨⟨⟨rfl, rfl, rfl, rfl⟩, by decide, by decide, by decide⟩, ⟨⟨rfl, rfl, rfl, rfl⟩, by decide, by decide, by decide⟩,
    .inl rfl, .inl rfl, rfl, rfl, rfl, by simp, by decide⟩

/-- EveryStepKeepsTheInvariant, ErrIsWrittenOnlyByCompletion: a step from a state of the invariant that writes ERR. -/
theorem test_witness_step_invariant :
    BlockInv (due 6) ∧ nextIs (step (due 6)) (fun t => t.err != (due 6).err) = true :=
  ⟨⟨⟨rfl, rfl, rfl, rfl, rfl, rfl, rfl⟩, by decide, by decide, by decide⟩, by decide⟩

/-- KeyIsImmutableWithinAnInstance: steps that change KEY, by INIT, CLEAR and reset. -/
theorem test_witness_key_changes :
    nextIs (step { due 0x00082001 with keyIn := keyP2 }) (fun t => t.key != Words8.zero) = true ∧
    nextIs (step { due 5 with key := keyP2 }) (fun t => t.key != keyP2) = true ∧
    nextIs (step { State.reset with key := keyP2, inputs := [.reset] }) (fun t => t.key != keyP2) = true := by decide

/-- CounterHasFiveWriters: steps that change CTR, by each writer. -/
theorem test_witness_counter_changes :
    nextIs (step { due 0x00082001 with ctr := 5 }) (fun t => t.ctr != 5) = true ∧
    nextIs (step { due 5 with ctr := 5 }) (fun t => t.ctr != 5) = true ∧
    nextIs (step { due 2 with fsm := .initialized, ctrsetLo := 9 }) (fun t => t.ctr != 0) = true ∧
    nextIs (step { due 0x102 with fsm := .initialized }) (fun t => t.ctr != 0) = true ∧
    nextIs (step { due 0x103 with fsm := .initialized }) (fun t => t.ctr != 0) = true ∧
    nextIs (step { State.reset with ctr := 5, inputs := [.reset] }) (fun t => t.ctr != 5) = true := by decide

/-- OverflowIsLeftOnlyByInitClearReset: steps that leave OVERFLOW. -/
theorem test_witness_overflow_left :
    deadState.fsm = .overflow ∧
    nextIs (step { deadState with busy := true, pcmd := 0x00082001 }) (fun t => t.fsm != .overflow) = true ∧
    nextIs (step { deadState with busy := true, pcmd := 5 }) (fun t => t.fsm != .overflow) = true ∧
    nextIs (step { deadState with inputs := [.reset] }) (fun t => t.fsm != .overflow) = true := by decide

/-- WerrRecordsDroppedWrites: a step that sets WERR, and two that clear it. -/
theorem test_witness_werr :
    nextIs (step { pending 0 with inputs := [.write 0x0C 5] }) (fun t => t.werr) = true ∧
    nextIs (step { State.reset with werr := true, inputs := [.write 0x04 4] }) (fun t => !t.werr) = true ∧
    nextIs (step { State.reset with werr := true, inputs := [.reset] }) (fun t => !t.werr) = true := by decide

/-- AcknowledgeDropsTheInterrupt: an offset of STATUS with bit 1 set, and one of CMD in an idle state with IRQ up. -/
theorem test_witness_acknowledge :
    AtSlot 0x07 0x04 ∧ (2 : Word).getLsbD 1 = true ∧ AtSlot 0x0B 0x08 ∧
    irq { State.reset with done := true, ie := true } = true ∧ State.reset.busy = false := by unfold AtSlot; decide

/-- PendingCommandFreezesItsRegisters, PendingCommandCompletes: a pending command, with a dropped write on its way. -/
theorem test_witness_pending :
    let s : State := { pending 0x00082001 with inputs := [.write 0x40 7, .read 0x04, .idle, .reset] }
    s.busy = true ∧ s.latencyLeft ≠ 0 ∧ s.inputs.head? ≠ some .reset ∧
      (∀ x ∈ s.inputs.take (s.latencyLeft + 1), x ≠ .reset) ∧ nextIs (step s) (fun t => t.busy) = true := by decide

/-- TimingAndErrorsHideSecrets: two states that differ in the key. -/
theorem test_witness_public : PublicEq { initState with key := keyP2 } initState ∧ keyP2 ≠ initState.key := by
  refine ⟨⟨rfl, rfl, rfl, rfl, rfl, rfl, rfl, rfl, rfl, rfl, rfl, rfl, rfl, rfl, rfl⟩, by decide⟩

/-- ResetAbortsAndResetsEverything: a reset while a completion is due. -/
theorem test_witness_reset : ({ due 5 with inputs := [.reset, .idle] } : State).inputs = .reset :: [.idle] := by decide

/-- LoadedKeyIsLittleEndian: the inputs of LOADKEY and LOADNONCE in an idle state. -/
theorem test_witness_loadkey :
    let k : Fin 32 → Byte := fun j => BitVec.ofNat 8 (j.val + 1)
    let n : Fin 8 → Byte := fun j => BitVec.ofNat 8 (j.val + 1)
    ({ State.reset with inputs := hostLOADKEY k ++ hostLOADNONCE n ++ [] } : State).inputs = hostLOADKEY k ++ hostLOADNONCE n ++ [] ∧
      State.reset.busy = false := by exact ⟨rfl, rfl⟩

end Sys2Proof.Tests
end

section
/-! The STATUS register field by field, a write to it, and the state after reset (10_state.md R41, R48; 20_memory.md R64). -/

namespace Sys2Proof.Machine

/-! ### The fields of STATUS (R41) -/

theorem extractLsb'_eq_iff_toNat {m n : Nat} (x : BitVec m) (i : Nat) (f : BitVec n) :
    x.extractLsb' i n = f ↔ x.toNat / 2 ^ i % 2 ^ n = f.toNat := by
  rw [← BitVec.toNat_inj, BitVec.extractLsb'_toNat, Nat.shiftRight_eq_div_pow]

theorem getLsbD_eq_iff_toNat {m : Nat} (x : BitVec m) (i : Nat) (b : Bool) :
    x.getLsbD i = b ↔ x.toNat / 2 ^ i % 2 = b.toNat := by
  rw [BitVec.getLsbD, Nat.testBit_eq_decide_div_mod_eq]
  cases b <;> simp

section
variable (s : State)

/-- Each field of STATUS stays below the next one, so no carry crosses a boundary in `statusWord_toNat`. -/
theorem statusFields_lt :
    s.busy.toNat < 2 ∧ s.done.toNat < 2 ∧ s.werr.toNat < 2 ∧ s.exh.toNat < 2 ∧ s.fsm.code.toNat < 4 ∧
      s.err.toNat < 16 ∧ s.offset.val < 65 :=
  ⟨s.busy.toNat_lt, s.done.toNat_lt, s.werr.toNat_lt, s.exh.toNat_lt, s.fsm.code.isLt, s.err.isLt, s.offset.isLt⟩

@[simp] theorem statusWord_done : (statusWord s).getLsbD 1 = s.done := by
  have hlt := statusFields_lt s
  rw [getLsbD_eq_iff_toNat, statusWord_toNat]; omega

@[simp] theorem statusWord_werr : (statusWord s).getLsbD 2 = s.werr := by
  have hlt := statusFields_lt s
  rw [getLsbD_eq_iff_toNat, statusWord_toNat]; omega

@[simp] theorem statusWord_exh : (statusWord s).getLsbD 3 = s.exh := by
  have hlt := statusFields_lt s
  rw [getLsbD_eq_iff_toNat, statusWord_toNat]; omega

@[simp] theorem statusWord_fsm : (statusWord s).extractLsb' 4 2 = s.fsm.code := by
  have hlt := statusFields_lt s
  rw [extractLsb'_eq_iff_toNat, statusWord_toNat]; omega

@[simp] theorem statusWord_err : (statusWord s).extractLsb' 8 4 = s.err := by
  have hlt := statusFields_lt s
  rw [extractLsb'_eq_iff_toNat, statusWord_toNat]; omega

@[simp] theorem statusWord_offset : ((statusWord s).extractLsb' 16 7).toNat = s.offset.val := by
  have hlt := statusFields_lt s
  rw [BitVec.extractLsb'_toNat, Nat.shiftRight_eq_div_pow, statusWord_toNat]; omega

theorem statusWord_reserved :
    (statusWord s).extractLsb' 6 2 = 0 ∧ (statusWord s).extractLsb' 12 4 = 0 ∧ (statusWord s).extractLsb' 23 9 = 0 := by
  have hlt := statusFields_lt s
  simp only [extractLsb'_eq_iff_toNat, statusWord_toNat, BitVec.ofNat_eq_ofNat, BitVec.toNat_zero]
  refine ⟨?_, ?_, ?_⟩ <;> omega

end

theorem statusWord_reset : statusWord State.reset = 0x00400000 := rfl

/-! ### A write to STATUS (R64) -/

/-- Write-1-to-clear: a flag goes down where the written bit is 1, and keeps its value elsewhere. -/
theorem writeStatus_eq (v : Word) (s : State) :
    writeStatus v s =
      { s with done := if v.getLsbD 1 then false else s.done, werr := if v.getLsbD 2 then false else s.werr } := by
  unfold writeStatus
  cases v.getLsbD 1 <;> cases v.getLsbD 2 <;> simp

/-- STATUS is not among the registers a pending command freezes, so a write to it is never dropped. -/
theorem portWrite_status {off : BitVec 8} (h : AtSlot off 0x04) (v : Word) (s : State) :
    portWrite off v s = writeStatus v s := by
  rcases portWrite_cases off v s with ⟨-, hfrozen, -⟩ | ⟨-, hwrite⟩
  · rw [slotOf_status off h] at hfrozen
    exact absurd hfrozen (by decide)
  · rw [hwrite, slotOf_status off h, writeSlot]

/-- Settles O15: the fields by `statusWord_toNat`, the write by `portWrite_status`, whether BUSY is 0 or 1. -/
theorem statusFieldsStandAtTheirBits : Obligations.StatusFieldsStandAtTheirBits := by
  refine ⟨fun s => ?_, fun s off v h => ?_, statusWord_reset⟩
  · obtain ⟨hlow, hmid, htop⟩ := statusWord_reserved s
    exact ⟨statusWord_busy s, statusWord_done s, statusWord_werr s, statusWord_exh s, statusWord_fsm s, hlow,
      statusWord_err s, hmid, statusWord_offset s, htop⟩
  · exact (portWrite_status h v s).trans (writeStatus_eq v s)

/-! ### The state after reset (R48) -/

/-- Settles O58: every register of `State.reset` is the value R48 gives it, and STATUS and IRQ follow from them. -/
theorem resetValues : Obligations.ResetValues :=
  ⟨rfl, rfl, rfl, rfl, rfl, rfl, rfl, rfl, rfl, rfl, rfl, rfl, rfl, rfl, rfl, rfl, rfl, rfl, rfl, rfl, statusWord_reset⟩

end Sys2Proof.Machine
end

section
/-! A block's words as bytes (20_memory.md R71). -/

namespace Sys2Proof.Machine

/-- Byte j of a word is a shift by 8j bits, as a division. -/
theorem wordByte_eq_ofNat (w : Word) (j : Nat) : wordByte w j = BitVec.ofNat 8 (w.toNat / 2 ^ (8 * j)) := by
  rw [wordByte, BitVec.extractLsb', Nat.shiftRight_eq_div_pow]

/-- Byte 4i + j of sixteen words is byte j of word i. -/
theorem blockByte_eq_wordByte (x : Words16) (i : Fin 16) {j : Nat} (hj : j < 4) :
    blockByte x ⟨4 * i.val + j, by omega⟩ = wordByte (x.get i) j := by
  have hword : (4 * i.val + j) / 4 = i.val := by omega
  have hbyte : (4 * i.val + j) % 4 = j := by omega
  simp only [blockByte, hword, hbyte]

@[simp] theorem serialize_length (x : Words16) : (serialize x).length = 64 := by simp [serialize]

theorem serialize_getElem? (x : Words16) (k : Fin 64) : (serialize x)[k.val]? = some (blockByte x k) := by
  simp [serialize]

/-- Settles O12: position 4i + j of the list is byte j of word i, and that byte is a division by 2^(8j). -/
theorem serializationIsLittleEndian : Obligations.SerializationIsLittleEndian := by
  refine fun x => ⟨serialize_length x, fun i j hj => ?_⟩
  rw [serialize_getElem? x ⟨4 * i.val + j, by omega⟩, blockByte_eq_wordByte x i hj, wordByte_eq_ofNat]

end Sys2Proof.Machine
end

section
/-! Transactions on the register port: offset decode (20_memory.md R61), reads while BUSY = 0 (R62), writes (R63 to R65) and
the reserved offsets (R67). -/

namespace Sys2Proof.Machine

/-! ### Offset decode (R61) -/

theorem slotOf_eq_slotAt (off : BitVec 8) : slotOf off = slotAt (off.toNat / 4) := by
  have hslot : off.toNat / 4 < 64 := by omega
  rw [slotOf, BitVec.extractLsb'_toNat, Nat.shiftRight_eq_div_pow, Nat.mod_eq_of_lt hslot]

/-- Settles O20: both transactions see the offset through `slotOf` alone, which ignores off[1:0]. -/
theorem offsetLowBitsAreIgnored : Obligations.OffsetLowBitsAreIgnored := by
  refine fun s off v => ⟨?_, ?_, slotOf_eq_slotAt off, by omega⟩
  · rw [portRead, portRead, slotOf_align]
  · rw [portWrite, portWrite, slotOf_align]

/-- The offsets 0x40 to 0x5F are the KEY_IN slots (R44). -/
theorem slotOf_keyIn_range {off : BitVec 8} (hlo : 0x40 ≤ off.toNat) (hhi : off.toNat < 0x60) :
    ∃ i, slotOf off = .keyIn i := by
  rw [slotOf_eq_slotAt]
  unfold slotAt
  rw [if_neg (by omega), if_pos (by omega)]
  exact ⟨_, rfl⟩

/-- The offsets 0x60 to 0x67 are the NONCE_IN slots (R44). -/
theorem slotOf_nonceIn_range {off : BitVec 8} (hlo : 0x60 ≤ off.toNat) (hhi : off.toNat < 0x68) :
    ∃ i, slotOf off = .nonceIn i := by
  rw [slotOf_eq_slotAt]
  unfold slotAt
  rw [if_neg (by omega), if_neg (by omega), if_pos (by omega)]
  exact ⟨_, rfl⟩

/-- The offsets 0x80 to 0xBF are the KS slots (R44). -/
theorem slotOf_ks_range {off : BitVec 8} (hlo : 0x80 ≤ off.toNat) (hhi : off.toNat < 0xC0) :
    ∃ i, slotOf off = .ks i := by
  rw [slotOf_eq_slotAt]
  unfold slotAt
  rw [if_neg (by omega), if_neg (by omega), if_neg (by omega), if_neg (by omega),
    if_pos (by omega)]
  exact ⟨_, rfl⟩

/-- The offsets from 0xC0 on are the H slots (R44). -/
theorem slotOf_h_range {off : BitVec 8} (hlo : 0xC0 ≤ off.toNat) : ∃ i, slotOf off = .h i := by
  rw [slotOf_eq_slotAt]
  unfold slotAt
  rw [if_neg (by omega), if_neg (by omega), if_neg (by omega), if_neg (by omega),
    if_neg (by omega)]
  exact ⟨_, rfl⟩

/-! ### Reads (R62, R67) -/

/-- STATUS as a word: the sum of its fields at their bit places (R41). -/
theorem statusWord_eq_ofNat (s : State) :
    statusWord s = BitVec.ofNat 32 (s.offset.val * 2 ^ 16 + s.err.toNat * 2 ^ 8 + s.fsm.code.toNat * 2 ^ 4 +
      s.exh.toNat * 2 ^ 3 + s.werr.toNat * 2 ^ 2 + s.done.toNat * 2 + s.busy.toNat) := by
  calc
    statusWord s = BitVec.ofNat 32 (statusWord s).toNat := by rw [BitVec.ofNat_toNat, BitVec.setWidth_eq]
    _ = _ := by rw [statusWord_toNat]; rfl

theorem ctrlWord_eq_ofNat (s : State) : ctrlWord s = BitVec.ofNat 32 s.ie.toNat := by
  rw [ctrlWord]
  cases s.ie <;> rfl

theorem counterLo_eq_ofNat (c : BitVec 64) : counterLo c = BitVec.ofNat 32 c.toNat := by
  rw [counterLo, BitVec.extractLsb', Nat.shiftRight_zero]

theorem counterHi_eq_ofNat (c : BitVec 64) : counterHi c = BitVec.ofNat 32 (c.toNat / 2 ^ 32) := by
  rw [counterHi, BitVec.extractLsb', Nat.shiftRight_eq_div_pow]

/-- No command writes a reserved slot, so no pending one makes a read there free (R66). -/
@[simp] theorem resultSlot_reserved (pcmd : Word) : resultSlot pcmd .reserved = false := by
  unfold resultSlot
  split_ifs <;> rfl

/-- While BUSY = 0 a read gives the value of the slot and has no side effect. -/
theorem readsAs_of_idle {s : State} {off : BitVec 8} {sl : Slot} (hidle : s.busy = false) (hslot : slotOf off = sl) :
    ReadsAs s off (slotValue s sl) := by
  rw [ReadsAs, portRead_idle off s hidle, hslot]

/-- A reserved slot reads 0, whether BUSY is 0 or 1. -/
theorem readsAs_of_reserved {s : State} {off : BitVec 8} (hslot : slotOf off = .reserved) : ReadsAs s off 0 := by
  rcases portRead_cases off s with ⟨-, hfree, -⟩ | ⟨-, hread⟩
  · rw [hslot, resultSlot_reserved] at hfree
    exact absurd hfree Bool.false_ne_true
  · rw [ReadsAs, hread, hslot, slotValue]

/-- Settles O14: `readsAs_of_idle` at the slot each offset selects, and the words of CTRL, STATUS and CTR as numbers. -/
theorem idleReadsFollowTheRegisterMap : Obligations.IdleReadsFollowTheRegisterMap := by
  intro s off hidle
  have hread : ∀ {sl}, slotOf off = sl → ReadsAs s off (slotValue s sl) := readsAs_of_idle hidle
  refine ⟨fun h => ?ctrl, fun h => ?status, fun h => hread (slotOf_cmd off h), fun h => hread (slotOf_din off h),
    fun h => hread (slotOf_dout off h), fun h => ?ctrLo, fun h => ?ctrHi, fun h => hread (slotOf_ctrsetLo off h),
    fun h => hread (slotOf_ctrsetHi off h), fun hlo hhi => hread (slotOf_reserved off (.inl ⟨hlo, hhi⟩)),
    fun hlo hhi => ?keyIn, fun i h => hread (slotOf_nonceIn i off h),
    fun hlo hhi => hread (slotOf_reserved off (.inr ⟨hlo, hhi⟩)), fun i h => hread (slotOf_ks i off h),
    fun i h => hread (slotOf_h i off h)⟩
  case ctrl => exact ctrlWord_eq_ofNat s ▸ hread (slotOf_ctrl off h)
  case status => exact statusWord_eq_ofNat s ▸ hread (slotOf_status off h)
  case ctrLo => exact counterLo_eq_ofNat s.ctr ▸ hread (slotOf_ctrLo off h)
  case ctrHi => exact counterHi_eq_ofNat s.ctr ▸ hread (slotOf_ctrHi off h)
  case keyIn =>
    obtain ⟨i, hi⟩ := slotOf_keyIn_range hlo hhi
    exact hread hi

/-! ### Writes (R63 to R65, R67) -/

/-- The slots a write to which has no effect: the read-only registers and the reserved ones (R63). -/
def Slot.isReadOnly : Slot → Bool
  | .dout | .ctrLo | .ctrHi | .ks _ | .reserved => true
  | .ctrl | .status | .cmd | .din | .ctrsetLo | .ctrsetHi | .keyIn _ | .nonceIn _ | .h _ => false

theorem isFrozen_of_isReadOnly {sl : Slot} (h : sl.isReadOnly = true) : sl.isFrozen = false := by
  cases sl <;> simp [Slot.isReadOnly, Slot.isFrozen] at h ⊢

theorem writeSlot_of_isReadOnly {sl : Slot} (h : sl.isReadOnly = true) (v : Word) (s : State) : writeSlot v s sl = s := by
  cases sl <;> simp [Slot.isReadOnly, writeSlot] at h ⊢

section
variable {s : State} {off : BitVec 8} {v : Word} {sl : Slot}

/-- While BUSY = 0 a write acts on its slot. -/
theorem writesTo_of_idle (hidle : s.busy = false) (hslot : slotOf off = sl) : WritesTo s off v (writeSlot v s sl) := by
  rw [WritesTo, portWrite_idle off v s hidle, hslot]

/-- While BUSY = 1 a write to a frozen slot sets WERR and does nothing else. -/
theorem writesTo_of_frozen (hbusy : s.busy = true) (hslot : slotOf off = sl) (hfrozen : sl.isFrozen = true) :
    WritesTo s off v { s with werr := true } := by
  rw [WritesTo, portWrite, hbusy, hslot, hfrozen, Bool.and_self, if_pos rfl]

/-- A write to a slot that is not frozen acts on it, whether BUSY is 0 or 1. -/
theorem writesTo_of_not_frozen (hslot : slotOf off = sl) (hfrozen : sl.isFrozen = false) :
    WritesTo s off v (writeSlot v s sl) := by
  rw [WritesTo, portWrite, hslot, hfrozen, Bool.and_false, if_neg Bool.false_ne_true]

/-- A write to a read-only or reserved slot has no effect, whether BUSY is 0 or 1. -/
theorem writesTo_of_isReadOnly (hslot : slotOf off = sl) (hro : sl.isReadOnly = true) : WritesTo s off v s := by
  have hwrite := writesTo_of_not_frozen (s := s) (v := v) hslot (isFrozen_of_isReadOnly hro)
  rwa [writeSlot_of_isReadOnly hro] at hwrite

theorem writesTo_ctrl (h : AtSlot off 0x00) : WritesTo s off v { s with ie := v.getLsbD 0 } :=
  writesTo_of_not_frozen (slotOf_ctrl off h) rfl

theorem writesTo_status (h : AtSlot off 0x04) : WritesTo s off v
    { s with done := if v.getLsbD 1 then false else s.done, werr := if v.getLsbD 2 then false else s.werr } :=
  (portWrite_status h v s).trans (writeStatus_eq v s)

end

/-- Settles O16: `writesTo_of_idle` at each writable slot, `writesTo_of_isReadOnly` at the others. -/
theorem idleWritesFollowTheRegisterMap : Obligations.IdleWritesFollowTheRegisterMap := by
  intro s off v hidle
  have hwrite : ∀ {sl}, slotOf off = sl → WritesTo s off v (writeSlot v s sl) := writesTo_of_idle hidle
  exact ⟨writesTo_ctrl, writesTo_status, fun h => ⟨_, _, _, hwrite (slotOf_cmd off h)⟩,
    fun h => hwrite (slotOf_din off h), fun h => hwrite (slotOf_ctrsetLo off h), fun h => hwrite (slotOf_ctrsetHi off h),
    fun i h => hwrite (slotOf_keyIn i off h), fun i h => hwrite (slotOf_nonceIn i off h),
    fun i h => hwrite (slotOf_h i off h), fun h => writesTo_of_isReadOnly (slotOf_dout off h) rfl,
    fun h => writesTo_of_isReadOnly (slotOf_ctrLo off h) rfl, fun h => writesTo_of_isReadOnly (slotOf_ctrHi off h) rfl,
    fun i h => writesTo_of_isReadOnly (slotOf_ks i off h) rfl,
    fun hlo hhi => writesTo_of_isReadOnly (slotOf_reserved off (.inl ⟨hlo, hhi⟩)) rfl,
    fun hlo hhi => writesTo_of_isReadOnly (slotOf_reserved off (.inr ⟨hlo, hhi⟩)) rfl⟩

/-- Settles O18: `writesTo_of_frozen` at CMD and the input registers, `writesTo_of_isReadOnly` at the read-only and reserved
slots; CTRL and STATUS are not frozen. -/
theorem busyWritesAreDropped : Obligations.BusyWritesAreDropped := by
  intro s off v hbusy
  refine ⟨?frozen, writesTo_ctrl, writesTo_status, ?readOnly⟩
  case frozen =>
    rintro (h | h | h | h | ⟨hlo, hhi⟩ | hlo)
    · exact writesTo_of_frozen hbusy (slotOf_cmd off h) rfl
    · exact writesTo_of_frozen hbusy (slotOf_din off h) rfl
    · exact writesTo_of_frozen hbusy (slotOf_ctrsetLo off h) rfl
    · exact writesTo_of_frozen hbusy (slotOf_ctrsetHi off h) rfl
    · rcases Nat.lt_or_ge off.toNat 0x60 with hkey | hnonce
      · obtain ⟨i, hi⟩ := slotOf_keyIn_range hlo hkey
        exact writesTo_of_frozen hbusy hi rfl
      · obtain ⟨i, hi⟩ := slotOf_nonceIn_range hnonce hhi
        exact writesTo_of_frozen hbusy hi rfl
    · obtain ⟨i, hi⟩ := slotOf_h_range hlo
      exact writesTo_of_frozen hbusy hi rfl
  case readOnly =>
    rintro (h | h | h | h | ⟨hlo, hhi⟩)
    · exact writesTo_of_isReadOnly (slotOf_dout off h) rfl
    · exact writesTo_of_isReadOnly (slotOf_ctrLo off h) rfl
    · exact writesTo_of_isReadOnly (slotOf_ctrHi off h) rfl
    · exact writesTo_of_isReadOnly (slotOf_reserved off (.inl h)) rfl
    · rcases Nat.lt_or_ge off.toNat 0x80 with hres | hks
      · exact writesTo_of_isReadOnly (slotOf_reserved off (.inr ⟨hlo, hres⟩)) rfl
      · obtain ⟨i, hi⟩ := slotOf_ks_range hks hhi
        exact writesTo_of_isReadOnly hi rfl

/-- Settles O19: the offsets select the reserved slot, which no command writes and which is read-only. -/
theorem reservedOffsetsReadZeroIgnoreWrites : Obligations.ReservedOffsetsReadZeroIgnoreWrites := by
  intro s off v hoff
  have hslot : slotOf off = .reserved := slotOf_reserved off (by omega)
  exact ⟨readsAs_of_reserved hslot, writesTo_of_isReadOnly hslot rfl⟩

end Sys2Proof.Machine
end

section
/-! The opcode map decides the command (30_encoding.md R94), and the words it leaves out raise IllegalCommand (R95 to R97,
60_exceptions.md R186). -/

namespace Sys2Proof

open Sys2Proof.Machine

/-! ### The rows of the opcode map exclude each other (R94) -/

section
variable {w : Word}

/-- Every mask covers OP, so a row that selects a word fixes its opcode. -/
theorem Row.fieldOp_of_selects {r : Row} (hr : r ∈ opcodeMap) (h : r.selects w = true) :
    fieldOp w = fieldOp r.pattern := by
  obtain ⟨-, -, -, hop⟩ := (Row.selects_iff r w).1 h
  have hmask : fieldOp r.mask = 0xFF := (by decide : ∀ r ∈ opcodeMap, fieldOp r.mask = 0xFF) r hr
  rwa [hmask, byte_and_ff] at hop

/-- The opcodes of the rows differ, so a word selects at most one of them. -/
theorem Row.eq_of_selects {r r' : Row} (hr : r ∈ opcodeMap) (hr' : r' ∈ opcodeMap) (h : r.selects w = true)
    (h' : r'.selects w = true) : r = r' := by
  have hop : fieldOp r.pattern = fieldOp r'.pattern := (fieldOp_of_selects hr h).symm.trans (fieldOp_of_selects hr' h')
  exact (by decide : ∀ r ∈ opcodeMap, ∀ r' ∈ opcodeMap, fieldOp r.pattern = fieldOp r'.pattern → r = r') r hr r' hr' hop

theorem opcodeMap_filter_selects_length_le_one : (opcodeMap.filter fun r => r.selects w).length ≤ 1 := by
  have hnodup : (opcodeMap.filter fun r => r.selects w).Nodup := List.Nodup.filter _ (by decide)
  rw [← List.toFinset_card_of_nodup hnodup, Finset.card_le_one]
  intro r hr r' hr'
  simp only [List.mem_toFinset, List.mem_filter] at hr hr'
  exact Row.eq_of_selects hr.1 hr'.1 hr.2 hr'.2

theorem Instr.row_mem_opcodeMap (i : Instr) : i.row ∈ opcodeMap := by
  cases i <;> simp [opcodeMap, row]

/-! ### The decoder by rows and fields (R92, R94) -/

/-- The arguments of the command are the fields of w that R92 names, and LEN is within its limit. -/
def Instr.ArgumentsIn (w : Word) : Instr → Prop
  | .init klen nlen => klen = fieldA w ∧ nlen = fieldB w
  | .seek boff => boff = fieldBoff w
  | .xor len => len = fieldLen w ∧ len.toNat ≤ 4
  | .nop | .hash | .clear => True

theorem selects_of_decode {i : Instr} (h : decode w = .ok i) : i.row.selects w = true ∧ i.ArgumentsIn w := by
  unfold decode at h
  split_ifs at h with hnop hinit hseek hxor hlen hhash hclear <;> cases h
  · exact ⟨hnop, trivial⟩
  · exact ⟨hinit, rfl, rfl⟩
  · exact ⟨hseek, rfl⟩
  · exact ⟨hxor, rfl, hlen⟩
  · exact ⟨hhash, trivial⟩
  · exact ⟨hclear, trivial⟩

/-- No other row selects the word, so the decoder reaches the command's branch. -/
theorem decode_of_selects {i : Instr} (hrow : i.row.selects w = true) (hargs : i.ArgumentsIn w) :
    decode w = .ok i := by
  have hrows : ∀ r ∈ opcodeMap, r.selects w = decide (r = i.row) := fun r hr => by
    rw [Bool.eq_iff_iff, decide_eq_true_iff]
    exact ⟨fun h => Row.eq_of_selects hr i.row_mem_opcodeMap h hrow, fun h => h ▸ hrow⟩
  rw [decode, hrows .nop (by decide), hrows .init (by decide), hrows .seek (by decide), hrows .xor (by decide),
    hrows .hash (by decide), hrows .clear (by decide)]
  cases i with
  | nop | hash | clear => rfl
  | init klen nlen => obtain ⟨rfl, rfl⟩ := hargs; rfl
  | seek boff => cases hargs; rfl
  | xor len => obtain ⟨rfl, hlen⟩ := hargs; exact if_pos hlen

/-- A word decodes to a command exactly when it selects its row and holds its arguments. -/
theorem decode_eq_ok_iff (i : Instr) : decode w = .ok i ↔ i.row.selects w = true ∧ i.ArgumentsIn w :=
  ⟨selects_of_decode, fun ⟨hrow, hargs⟩ => decode_of_selects hrow hargs⟩

end

/-- Settles O4: `decode_eq_ok_iff` at each command, whose row's selection is the equation of its mask and match. -/
theorem opcodeMapDecidesTheCommand : Obligations.OpcodeMapDecidesTheCommand := by
  refine ⟨fun w => ?_, rfl, rfl, rfl⟩
  have hdecode (i : Instr) : decode w = .ok i ↔ w &&& i.row.mask = i.row.pattern ∧ i.ArgumentsIn w := by
    rw [decode_eq_ok_iff, Row.selects, beq_iff_eq]
  exact ⟨(hdecode .nop).trans (and_iff_left trivial), fun klen nlen => hdecode (.init klen nlen),
    fun boff => hdecode (.seek boff), fun len => hdecode (.xor len), (hdecode .hash).trans (and_iff_left trivial),
    (hdecode .clear).trans (and_iff_left trivial), opcodeMap_filter_selects_length_le_one⟩

/-! ### The illegal words (R95, R96, R97) -/

theorem byte_and_C0_eq_zero_iff (x : BitVec 8) : x &&& 0xC0 = 0 ↔ x.extractLsb' 6 2 = 0 := by revert x; decide

theorem byte_and_F8_eq_zero_iff (x : BitVec 8) : x &&& 0xF8 = 0 ↔ x.extractLsb' 3 5 = 0 := by revert x; decide

/-- An opcode is reserved or one of the six commands' (R95). -/
theorem opcode_cases (op : BitVec 8) :
    6 ≤ op.toNat ∨ op = 0 ∨ op = 1 ∨ op = 2 ∨ op = 3 ∨ op = 4 ∨ op = 5 := by bv_omega

section
variable {w : Word}

/-- A word is legal exactly when it selects a row, and XOR's only with LEN ≤ 4. -/
theorem exists_decode_eq_ok_iff : (∃ i, decode w = .ok i) ↔
    Row.nop.selects w = true ∨ Row.init.selects w = true ∨ Row.seek.selects w = true ∨
      Row.xor.selects w = true ∧ (fieldLen w).toNat ≤ 4 ∨ Row.hash.selects w = true ∨ Row.clear.selects w = true := by
  simp only [decode_eq_ok_iff]
  constructor
  · rintro ⟨i, hrow, hargs⟩
    cases i with
    | nop => exact .inl hrow
    | init klen nlen => exact .inr (.inl hrow)
    | seek boff => exact .inr (.inr (.inl hrow))
    | xor len =>
      obtain ⟨rfl, hlen⟩ := hargs
      exact .inr (.inr (.inr (.inl ⟨hrow, hlen⟩)))
    | hash => exact .inr (.inr (.inr (.inr (.inl hrow))))
    | clear => exact .inr (.inr (.inr (.inr (.inr hrow))))
  · rintro (hrow | hrow | hrow | ⟨hrow, hlen⟩ | hrow | hrow)
    · exact ⟨.nop, hrow, trivial⟩
    · exact ⟨.init _ _, hrow, rfl, rfl⟩
    · exact ⟨.seek _, hrow, rfl⟩
    · exact ⟨.xor _, hrow, rfl, hlen⟩
    · exact ⟨.hash, hrow, trivial⟩
    · exact ⟨.clear, hrow, trivial⟩

theorem exists_decode_eq_error_iff : (∃ r, decode w = .error r) ↔ ¬ ∃ i, decode w = .ok i := by
  cases decode w <;> simp

end

/-- Settles O5: an illegal word is one no row admits (`exists_decode_eq_ok_iff`), compared opcode by opcode with the cases of
R95 to R97; its completion is `coreStep_cases`. -/
theorem illegalWordRaisesIllegalCommand : Obligations.IllegalWordRaisesIllegalCommand := by
  refine ⟨fun w => ?illegal, fun s r hr => ?completion, rfl⟩
  case illegal =>
    rw [exists_decode_eq_error_iff, exists_decode_eq_ok_iff, ← Nat.lt_succ_iff]
    simp only [selects_nop_iff, selects_init_iff, selects_seek_iff, selects_xor_iff, selects_hash_iff, selects_clear_iff,
      byte_and_C0_eq_zero_iff, byte_and_F8_eq_zero_iff, fieldLen_eq, fieldOp, fieldA, fieldB, fieldZ]
    generalize w.extractLsb' 24 8 = z, w.extractLsb' 16 8 = b, w.extractLsb' 8 8 = a, w.extractLsb' 0 8 = op
    rcases opcode_cases op with hreserved | rfl | rfl | rfl | rfl | rfl | rfl
    · have hundefined : op ≠ 0 ∧ op ≠ 1 ∧ op ≠ 2 ∧ op ≠ 3 ∧ op ≠ 4 ∧ op ≠ 5 := by bv_omega
      simp only [hreserved, hundefined, true_or, or_self, false_and, and_false, not_false_iff]
    all_goals simp [imp_iff_not_or, or_assoc, or_comm, or_left_comm]
  case completion =>
    rcases coreStep_cases s with ⟨i, hi, -⟩ | ⟨-, -, hstep⟩
    · rw [hr] at hi; cases hi
    · exact hstep

end Sys2Proof
end

section
/-! The counter advance (40_arx_datapath.md R124; 10_state.md R26). -/

namespace Sys2Proof.Machine

@[simp] theorem counterLo_toNat (c : BitVec 64) : (counterLo c).toNat = c.toNat % 2 ^ 32 := by
  rw [counterLo_eq_ofNat, BitVec.toNat_ofNat]

@[simp] theorem counterHi_toNat (c : BitVec 64) : (counterHi c).toNat = c.toNat / 2 ^ 32 := by
  have hlt := c.isLt
  rw [counterHi_eq_ofNat, BitVec.toNat_ofNat, Nat.mod_eq_of_lt (by omega)]

@[simp] theorem nextCtr_toNat (c : BitVec 64) : (nextCtr c).toNat = (c.toNat + 1) % 2 ^ 64 :=
  BitVec.toNat_add c 1

theorem wraps_iff (c : BitVec 64) : wraps c = true ↔ c.toNat = 2 ^ 64 - 1 := by
  rw [wraps, beq_iff_eq, ← BitVec.toNat_inj]; rfl

theorem word_add_one_toNat (w : Word) : (w + 1).toNat = (w.toNat + 1) % 2 ^ 32 :=
  BitVec.toNat_add w 1

theorem counterLo_nextCtr (c : BitVec 64) : counterLo (nextCtr c) = counterLo c + 1 := by
  apply BitVec.eq_of_toNat_eq
  rw [word_add_one_toNat, counterLo_toNat, counterLo_toNat, nextCtr_toNat]
  omega

/-- The low word carries exactly where it is all ones. -/
theorem counterHi_nextCtr (c : BitVec 64) :
    counterHi (nextCtr c) = if counterLo c = 0xFFFFFFFF then counterHi c + 1 else counterHi c := by
  have hlt := c.isLt
  have hcarry : counterLo c = 0xFFFFFFFF ↔ c.toNat % 2 ^ 32 = 2 ^ 32 - 1 := by
    rw [← BitVec.toNat_inj, counterLo_toNat]; rfl
  apply BitVec.eq_of_toNat_eq
  split
  case isTrue hones =>
    rw [hcarry] at hones
    rw [word_add_one_toNat, counterHi_toNat, counterHi_toNat, nextCtr_toNat]
    omega
  case isFalse hones =>
    rw [hcarry] at hones
    rw [counterHi_toNat, counterHi_toNat, nextCtr_toNat]
    omega

/-- Where EXH = 0, a refill sets it exactly on the wrap. -/
theorem refill_exh_iff_wraps {s : State} (hexh : s.exh = false) : (refill s).exh = true ↔ wraps s.ctr = true := by
  rw [refill_exh, hexh, Bool.false_or]

/-- Settles O13: the counter and its two words as numbers, and EXH after a refill by `refill_exh_iff_wraps`. -/
theorem counterAdvancesModulo64Bits : Obligations.CounterAdvancesModulo64Bits :=
  ⟨fun c => ⟨nextCtr_toNat c, wraps_iff c, counterLo_nextCtr c, counterHi_nextCtr c⟩, rfl,
    fun s hexh => (refill_exh_iff_wraps hexh).trans (wraps_iff s.ctr)⟩

end Sys2Proof.Machine
end

section
/-! The core function: the permutation with its feed-forward (40_arx_datapath.md R117, R119). -/

namespace Sys2Proof.Machine

theorem addWords_get (x y : Words16) (i : Fin 16) : (addWords x y).get i = x.get i + y.get i := by
  fin_cases i <;> rfl

/-- Word i of the core is the feed-forward sum modulo 2^32. -/
theorem coreFunction_get (x : Words16) (i : Fin 16) :
    (coreFunction x).get i = BitVec.ofNat 32 (((permute x).get i).toNat + (x.get i).toNat) := by
  rw [coreFunction, addWords_get, BitVec.ofNat_add, BitVec.ofNat_toNat, BitVec.ofNat_toNat, BitVec.setWidth_eq,
    BitVec.setWidth_eq]

/-! ### Zero words stay zero -/

@[simp] theorem doubleRound_zero : doubleRound Words16.zero = Words16.zero := by decide

@[simp] theorem doubleRounds_zero (n : Nat) : doubleRounds n Words16.zero = Words16.zero := by
  induction n with
  | zero => rfl
  | succ n ih => rw [doubleRounds, doubleRound_zero, ih]

@[simp] theorem permute_zero : permute Words16.zero = Words16.zero := doubleRounds_zero _

@[simp] theorem addWords_zero_zero : addWords Words16.zero Words16.zero = Words16.zero := by decide

@[simp] theorem coreFunction_zero : coreFunction Words16.zero = Words16.zero := by
  rw [coreFunction, permute_zero, addWords_zero_zero]

/-! ### The example of R119, and HASH -/

theorem coreFunction_range :
    coreFunction ⟨0, 1, 2, 3, 4, 5, 6, 7, 8, 9, 10, 11, 12, 13, 14, 15⟩ =
      ⟨0xE1A0EBE0, 0x06032A02, 0x1EC19924, 0x91FFB36E, 0x83068335, 0xA7C06E2C, 0x75B43867, 0xCCF8517E,
       0xF61BA820, 0xAB1B8972, 0xEC9ED7F6, 0x478636B9, 0x745DD6AD, 0x8BBE722D, 0xA1CC9BDF, 0x5FC70CF0⟩ := by decide

/-- HASH completes in every state with the core of H in H (R162). -/
theorem exec_hash (s : State) : exec .hash s = .next (complete .ok { s with h := coreFunction s.h }) := rfl

/-- Settles O10: `coreFunction_get` word by word; a block is the core of its layout, and HASH the core of H. -/
theorem coreAddsTheFeedForward : Obligations.CoreAddsTheFeedForward :=
  ⟨coreFunction_get, fun _ _ _ => rfl, fun s => ⟨_, exec_hash s, complete_h _ _⟩, coreFunction_zero, coreFunction_range⟩

end Sys2Proof.Machine
end

section
/-! NOP (41_control_commands.md R144). -/

namespace Sys2Proof.Machine

/-- NOP does nothing but complete, in every state (R144). -/
theorem exec_nop (s : State) : exec .nop s = .next (complete .ok s) := rfl

/-- NOP's row is the word 0 and no other. -/
theorem selects_nop_iff_eq_zero (w : Word) : Row.nop.selects w = true ↔ w = 0 :=
  (selects_nop_iff w).trans (word_eq_iff_fields w 0).symm

/-- NOP's row is the only one with OP 0. -/
theorem eq_nop_of_fieldOp_pattern_eq_zero : ∀ r ∈ opcodeMap, fieldOp r.pattern = 0 → r = .nop := by decide

/-- The only legal word with OP 0 is the word 0. -/
theorem eq_zero_of_decode_eq_ok {w : Word} {i : Instr} (hop : fieldOp w = 0) (h : decode w = .ok i) : w = 0 := by
  obtain ⟨hsel, -⟩ := selects_of_decode h
  have hrow : i.row = .nop := eq_nop_of_fieldOp_pattern_eq_zero _ i.row_mem_opcodeMap
    ((Row.fieldOp_of_selects i.row_mem_opcodeMap hsel).symm.trans hop)
  rwa [hrow, selects_nop_iff_eq_zero] at hsel

/-- Settles O30: by `eq_zero_of_decode_eq_ok`, a word with OP 0 other than 0 has no command, so `coreStep_cases` leaves only
IllegalCommand; the completion of NOP is `exec_nop`. -/
theorem nopChangesNothingElse : Obligations.NopChangesNothingElse := by
  refine ⟨rfl, fun s hop hne => ?_, exec_nop, _, exec_nop _, rfl⟩
  rcases coreStep_cases s with ⟨i, hi, -⟩ | ⟨-, -, hstep⟩
  · exact absurd (eq_zero_of_decode_eq_ok hop hi) hne
  · exact hstep

end Sys2Proof.Machine
end

section
/-! Failed commands: what they leave unchanged (60_exceptions.md R183), and where InvalidKeyLength, InvalidNonceLength,
CounterOverflow and InvalidState are raised (R181, R182, R184, R185). -/

namespace Sys2Proof.Machine

/-- A command has one next state. -/
theorem eq_of_exec_eq_next {i : Instr} {s t u : State} (ht : exec i s = .next t) (hu : exec i s = .next u) : t = u :=
  Host.Outcome.next.inj (ht.symm.trans hu)

/-! ### What a failed command writes (R183) -/

/-- A command succeeds, or fails with its effects discarded, or is an XOR that exhausts the keystream. -/
theorem exec_succeeds_or_fails (i : Instr) (s : State) :
    (∃ u, exec i s = .next (complete .ok u)) ∨
    (∃ c, c ≠ .ok ∧ exec i s = .next (complete c s)) ∨
    (∃ len, i = .xor len ∧ (s.fsm = .initialized ∨ s.fsm = .generating) ∧ 64 - s.offset.val < len.toNat ∧ s.exh = true ∧
      exec i s = .next (complete .counterOverflow { s with fsm := .overflow })) := by
  rcases exec_cases i s with hfail | hexhausts |
    ⟨-, hok⟩ | ⟨-, hok⟩ | ⟨_, -, -, hok⟩ | ⟨_, -, -, -, -, hok⟩ | ⟨-, hok⟩ | ⟨-, hok⟩
  · exact .inr (.inl hfail)
  · exact .inr (.inr hexhausts)
  all_goals exact .inl ⟨_, hok⟩

/-- Settles O27: `exec_succeeds_or_fails`, where a success is excluded by its code 0. -/
theorem failedCommandWritesNoResult : Obligations.FailedCommandWritesNoResult := by
  intro i s t ht herr
  rcases exec_succeeds_or_fails i s with ⟨u, hok⟩ | ⟨c, -, hfail⟩ | ⟨len, hi, hfsm, hlen, hexh, hexhausts⟩
  · obtain rfl := eq_of_exec_eq_next ht hok
    exact absurd rfl herr
  · obtain rfl := eq_of_exec_eq_next ht hfail
    exact .inl rfl
  · obtain rfl := eq_of_exec_eq_next ht hexhausts
    exact .inr ⟨len, hi, hfsm, hlen, hexh, rfl, rfl⟩

/-! ### INIT's length errors (R181, R182) -/

/-- Settles O32: `execInit_cases`, where each length error excludes the other outcomes. -/
theorem initRefusesOtherLengths : Obligations.InitRefusesOtherLengths := by
  intro klen nlen s
  rcases execInit_cases klen nlen s with ⟨hk, hexec⟩ | ⟨hk, hn, hexec⟩ | ⟨rfl, rfl, -⟩
  · exact ⟨fun _ => hexec, fun hk' => absurd hk' hk⟩
  · exact ⟨fun hk' => absurd hk hk', fun _ _ => hexec⟩
  · exact ⟨fun hk => absurd rfl hk, fun _ hn => absurd rfl hn⟩

/-! ### CounterOverflow and InvalidState (R184, R185) -/

/-- Settles O40: command by command. NOP, HASH, CLEAR and INIT raise neither code; SEEK and XOR by `execSeek_cases` and
`execXor_cases`, whose conditions exclude each other. -/
theorem stateErrorsAreRaisedExactlyWhere : Obligations.StateErrorsAreRaisedExactlyWhere := by
  intro i s t ht
  cases i with
  | nop | hash | clear =>
    obtain rfl := eq_of_exec_eq_next ht rfl
    simp [ResultCode.number]
  | init klen nlen =>
    rcases execInit_cases klen nlen s with ⟨-, hexec⟩ | ⟨-, -, hexec⟩ | ⟨-, -, hexec⟩
    all_goals
      obtain rfl := eq_of_exec_eq_next ht hexec
      simp [ResultCode.number]
  | seek boff =>
    rcases execSeek_cases boff s with ⟨hfsm | hfsm, hexec⟩ | ⟨hfsm, hexec⟩ | ⟨hfsm, hexec⟩
    all_goals
      obtain rfl := eq_of_exec_eq_next ht hexec
      simp [ResultCode.number, hfsm]
  | xor len =>
    rcases execXor_cases len s with ⟨hlen, hexec⟩ | ⟨hlen, hfsm, hexec⟩ | ⟨hlen, hfsm, hexec⟩ |
      ⟨hlen, hfsm, hneed, hexh, hexec⟩ | ⟨hlen, hfsm, hfits, hexec⟩ <;> obtain rfl := eq_of_exec_eq_next ht hexec
    · simp [ResultCode.number, Nat.not_le.2 hlen]
    · simp [ResultCode.number, hlen, hfsm]
    · simp [ResultCode.number, hlen, hfsm]
    · rcases hfsm with hfsm | hfsm <;> simp [ResultCode.number, hlen, hfsm, hneed, hexh]
    · rcases hfsm with hfsm | hfsm <;> simp +contextual [ResultCode.number, hfsm, hfits]

end Sys2Proof.Machine
end

section
/-! Decoder and encoder undo each other (30_encoding.md sections 1 to 3). -/

namespace Sys2Proof

open Sys2Proof.Machine

/-! ### The fields of an encoded command (R91, R92) -/

/-- The encoding of a well-formed command selects the command's row. -/
theorem encode_selects_row (i : Instr) : Laws.EncodeSelectsRow.Statement i := by
  cases i with
  | nop => exact Laws.EncodeSelectsRow.nop
  | init klen nlen => exact Laws.EncodeSelectsRow.init klen nlen
  | seek boff => exact Laws.EncodeSelectsRow.seek boff
  | xor len => exact Laws.EncodeSelectsRow.xor len
  | hash => exact Laws.EncodeSelectsRow.hash
  | clear => exact Laws.EncodeSelectsRow.clear

theorem boff_of_byte : ∀ boff : BitVec 6, ((0 : BitVec 2) ++ boff).extractLsb' 0 6 = boff := by decide

theorem len_of_byte : ∀ len : BitVec 3, ((0 : BitVec 5) ++ len).extractLsb' 0 3 = len := by decide

/-- The argument fields of the encoding hold the command's arguments. -/
theorem argumentsIn_encode {i : Instr} (hwf : i.wf = true) : i.ArgumentsIn (encode i) := by
  cases i with
  | nop | hash | clear => trivial
  | init klen nlen => exact ⟨(fieldA_assembleFields ..).symm, (fieldB_assembleFields ..).symm⟩
  | seek boff =>
    show boff = fieldBoff (encode (.seek boff))
    rw [fieldBoff_eq, encode, fieldA_assembleFields, boff_of_byte]
  | xor len =>
    refine ⟨?_, of_decide_eq_true hwf⟩
    rw [fieldLen_eq, encode, fieldA_assembleFields, len_of_byte]

/-- Settles O2: the encoding selects the command's row and holds its arguments, which decides the decoder. -/
theorem decodeOfEncodeIsTheCommand : Obligations.DecodeOfEncodeIsTheCommand :=
  fun i hwf => decode_of_selects (encode_selects_row i hwf) (argumentsIn_encode hwf)

/-! ### One meaning a word (R94) -/

theorem wf_of_argumentsIn {w : Word} {i : Instr} (h : i.ArgumentsIn w) : i.wf = true := by
  cases i with
  | xor len => exact decide_eq_true h.2
  | _ => rfl

/-- A word is determined by the row it selects and the arguments it holds. -/
theorem encode_eq_of_selects {w : Word} {i : Instr} (hrow : i.row.selects w = true) (hargs : i.ArgumentsIn w) :
    encode i = w := by
  rw [← assembleFields_fields w]
  cases i with
  | nop =>
    obtain ⟨hz, hb, ha, hop⟩ := (selects_nop_iff w).1 hrow
    rw [hz, hb, ha, hop, encode]
  | init klen nlen =>
    obtain ⟨hz, hop⟩ := (selects_init_iff w).1 hrow
    obtain ⟨rfl, rfl⟩ := hargs
    rw [hz, hop, encode]
  | seek boff =>
    obtain ⟨hz, hb, ha, hop⟩ := (selects_seek_iff w).1 hrow
    cases hargs
    rw [hz, hb, hop, encode, fieldBoff_eq, byte_of_boff _ ha]
  | xor len =>
    obtain ⟨hz, hb, ha, hop⟩ := (selects_xor_iff w).1 hrow
    obtain ⟨rfl, -⟩ := hargs
    rw [hz, hb, hop, encode, fieldLen_eq, byte_of_len _ ha]
  | hash =>
    obtain ⟨hz, hb, ha, hop⟩ := (selects_hash_iff w).1 hrow
    rw [hz, hb, ha, hop, encode]
  | clear =>
    obtain ⟨hz, hb, ha, hop⟩ := (selects_clear_iff w).1 hrow
    rw [hz, hb, ha, hop, encode]

/-- Settles O3: a word that decodes selects the command's row and holds its arguments, which fixes all four fields. -/
theorem encodeOfDecodeIsTheWord : Obligations.EncodeOfDecodeIsTheWord := by
  intro w i h
  obtain ⟨hrow, hargs⟩ := selects_of_decode h
  exact ⟨wf_of_argumentsIn hargs, encode_eq_of_selects hrow hargs⟩

/-- Settles O1: the legal words are encodings of well-formed commands, so they decode by `decodeOfEncodeIsTheCommand`; the
encodings and the illegal words are evaluated. -/
theorem sampleWordsDecodeAsListed : Obligations.SampleWordsDecodeAsListed :=
  have h (i : Instr) (hwf : i.wf = true) : decode (encode i) = .ok i := decodeOfEncodeIsTheCommand i hwf
  ⟨h .nop rfl, h (.init 32 8) rfl, h (.init 16 8) rfl, h (.seek 0) rfl, h (.seek 63) rfl, h (.xor 0) rfl, h (.xor 4) rfl,
    h .hash rfl, h .clear rfl, rfl, rfl, rfl, rfl, rfl, rfl, rfl, rfl, rfl, rfl, rfl, rfl, rfl, rfl, rfl, rfl, rfl, rfl⟩

end Sys2Proof
end

section
/-! What SEEK and XOR leave in each register, one lemma per field as for the other shared updates, and the two inversion
lemmas: the state a command ends in, and the state a step answers. -/

namespace Sys2Proof.Machine

/-! ### The keystream registers -/

/-- s with the keystream registers CTR, EXH, FSM, KS and OFFSET of t (R25 to R29). -/
def State.withStreamOf (s t : State) : State :=
  { s with ctr := t.ctr, exh := t.exh, fsm := t.fsm, ks := t.ks, offset := t.offset }

/-- Where t differs from s in the keystream registers alone and u from t, so does u from s. -/
theorem eq_withStreamOf_trans {s t u : State} (ht : t = s.withStreamOf t) (hu : u = t.withStreamOf u) :
    u = s.withStreamOf u := by
  rw [ht] at hu
  exact hu

/-! ### SEEK's effect -/

/-- SEEK writes the keystream registers alone (R142). -/
theorem seekTo_frame (b : BitVec 6) (s : State) : seekTo b s = s.withStreamOf (seekTo b s) := by
  by_cases hb : b = 0
  · rw [hb, seekTo_zero]; rfl
  · rw [seekTo_ne b s hb]; rfl

@[simp] theorem seekTo_key (b : BitVec 6) (s : State) : (seekTo b s).key = s.key := by rw [seekTo_frame]; rfl
@[simp] theorem seekTo_nonce (b : BitVec 6) (s : State) : (seekTo b s).nonce = s.nonce := by rw [seekTo_frame]; rfl
@[simp] theorem seekTo_keyIn (b : BitVec 6) (s : State) : (seekTo b s).keyIn = s.keyIn := by rw [seekTo_frame]; rfl
@[simp] theorem seekTo_nonceIn (b : BitVec 6) (s : State) : (seekTo b s).nonceIn = s.nonceIn := by rw [seekTo_frame]; rfl
@[simp] theorem seekTo_ctrsetLo (b : BitVec 6) (s : State) : (seekTo b s).ctrsetLo = s.ctrsetLo := by rw [seekTo_frame]; rfl
@[simp] theorem seekTo_ctrsetHi (b : BitVec 6) (s : State) : (seekTo b s).ctrsetHi = s.ctrsetHi := by rw [seekTo_frame]; rfl
@[simp] theorem seekTo_din (b : BitVec 6) (s : State) : (seekTo b s).din = s.din := by rw [seekTo_frame]; rfl
@[simp] theorem seekTo_dout (b : BitVec 6) (s : State) : (seekTo b s).dout = s.dout := by rw [seekTo_frame]; rfl
@[simp] theorem seekTo_h (b : BitVec 6) (s : State) : (seekTo b s).h = s.h := by rw [seekTo_frame]; rfl
@[simp] theorem seekTo_werr (b : BitVec 6) (s : State) : (seekTo b s).werr = s.werr := by rw [seekTo_frame]; rfl
@[simp] theorem seekTo_ie (b : BitVec 6) (s : State) : (seekTo b s).ie = s.ie := by rw [seekTo_frame]; rfl
@[simp] theorem seekTo_pcmd (b : BitVec 6) (s : State) : (seekTo b s).pcmd = s.pcmd := by rw [seekTo_frame]; rfl
@[simp] theorem seekTo_work (b : BitVec 6) (s : State) : (seekTo b s).work = s.work := by rw [seekTo_frame]; rfl
@[simp] theorem seekTo_roundPos (b : BitVec 6) (s : State) : (seekTo b s).roundPos = s.roundPos := by rw [seekTo_frame]; rfl
@[simp] theorem seekTo_draws (b : BitVec 6) (s : State) : (seekTo b s).draws = s.draws := by rw [seekTo_frame]; rfl
@[simp] theorem seekTo_inputs (b : BitVec 6) (s : State) : (seekTo b s).inputs = s.inputs := by rw [seekTo_frame]; rfl
@[simp] theorem seekTo_reads (b : BitVec 6) (s : State) : (seekTo b s).reads = s.reads := by rw [seekTo_frame]; rfl

/-- The counter after SEEK: the starting counter, or the one after it where a block was generated. -/
theorem seekTo_ctr (b : BitVec 6) (s : State) :
    (seekTo b s).ctr = if b = 0 then startCounter s else startCounter s + 1 := by
  split
  case isTrue hb => rw [hb, seekTo_zero]
  case isFalse hb => rw [seekTo_ne b s hb]; rfl

theorem seekTo_fsm (b : BitVec 6) (s : State) : (seekTo b s).fsm = if b = 0 then s.fsm else .generating := by
  split
  case isTrue hb => rw [hb, seekTo_zero]
  case isFalse hb => rw [seekTo_ne b s hb]

/-! ### XOR's effect -/

theorem advance_frame (s : State) : advance s = s.withStreamOf (advance s) := by
  by_cases h : s.offset = 64
  · rw [advance_of_eq s h]; rfl
  · rw [advance_of_ne s h]; rfl

/-- The loop of XOR writes the keystream registers alone. -/
theorem xorBytes_frame (n j : Nat) (out : Word) (s : State) :
    (xorBytes n j out s).1 = s.withStreamOf (xorBytes n j out s).1 := by
  induction n generalizing j out s with
  | zero => rfl
  | succ n ih =>
    rw [xorBytes_succ]
    exact eq_withStreamOf_trans (advance_frame s) (ih _ _ (advance s))

/-- XOR writes the keystream registers and DOUT alone (R161). -/
theorem xorEffect_frame (n : Nat) (s : State) :
    xorEffect n s = { s.withStreamOf (xorEffect n s) with dout := (xorEffect n s).dout } :=
  congrArg (fun t : State => { t with dout := (xorEffect n s).dout }) (xorBytes_frame n 0 0 s)

@[simp] theorem xorEffect_key (n : Nat) (s : State) : (xorEffect n s).key = s.key := by rw [xorEffect_frame]; rfl
@[simp] theorem xorEffect_nonce (n : Nat) (s : State) : (xorEffect n s).nonce = s.nonce := by rw [xorEffect_frame]; rfl
@[simp] theorem xorEffect_keyIn (n : Nat) (s : State) : (xorEffect n s).keyIn = s.keyIn := by rw [xorEffect_frame]; rfl
@[simp] theorem xorEffect_nonceIn (n : Nat) (s : State) : (xorEffect n s).nonceIn = s.nonceIn := by
  rw [xorEffect_frame]; rfl
@[simp] theorem xorEffect_ctrsetLo (n : Nat) (s : State) : (xorEffect n s).ctrsetLo = s.ctrsetLo := by
  rw [xorEffect_frame]; rfl
@[simp] theorem xorEffect_ctrsetHi (n : Nat) (s : State) : (xorEffect n s).ctrsetHi = s.ctrsetHi := by
  rw [xorEffect_frame]; rfl
@[simp] theorem xorEffect_din (n : Nat) (s : State) : (xorEffect n s).din = s.din := by rw [xorEffect_frame]; rfl
@[simp] theorem xorEffect_h (n : Nat) (s : State) : (xorEffect n s).h = s.h := by rw [xorEffect_frame]; rfl
@[simp] theorem xorEffect_werr (n : Nat) (s : State) : (xorEffect n s).werr = s.werr := by rw [xorEffect_frame]; rfl
@[simp] theorem xorEffect_ie (n : Nat) (s : State) : (xorEffect n s).ie = s.ie := by rw [xorEffect_frame]; rfl
@[simp] theorem xorEffect_pcmd (n : Nat) (s : State) : (xorEffect n s).pcmd = s.pcmd := by rw [xorEffect_frame]; rfl
@[simp] theorem xorEffect_work (n : Nat) (s : State) : (xorEffect n s).work = s.work := by rw [xorEffect_frame]; rfl
@[simp] theorem xorEffect_roundPos (n : Nat) (s : State) : (xorEffect n s).roundPos = s.roundPos := by
  rw [xorEffect_frame]; rfl
@[simp] theorem xorEffect_draws (n : Nat) (s : State) : (xorEffect n s).draws = s.draws := by rw [xorEffect_frame]; rfl
@[simp] theorem xorEffect_inputs (n : Nat) (s : State) : (xorEffect n s).inputs = s.inputs := by rw [xorEffect_frame]; rfl
@[simp] theorem xorEffect_reads (n : Nat) (s : State) : (xorEffect n s).reads = s.reads := by rw [xorEffect_frame]; rfl

/-- XOR 0 writes 0 to DOUT and moves nothing. -/
theorem xorEffect_zero (s : State) : xorEffect 0 s = { s with dout := 0 } := rfl

/-- Where the buffer has fewer than n bytes, XOR generates the block of CTR, once; elsewhere it only consumes bytes. -/
theorem xorEffect_stream {n : Nat} (s : State) (hn : n ≤ 64) :
    (s.offset.val + n ≤ 64 ∧
      xorEffect n s = { s with offset := (xorEffect n s).offset, dout := (xorEffect n s).dout } ∧
      (xorEffect n s).offset.val = s.offset.val + n) ∨
    (64 < s.offset.val + n ∧
      xorEffect n s = { refill s with offset := (xorEffect n s).offset, dout := (xorEffect n s).dout } ∧
      (xorEffect n s).offset.val = s.offset.val + n - 64) := by
  have hlt := s.offset.isLt
  rcases Nat.lt_or_ge 64 (s.offset.val + n) with hoff | hoff
  · rw [xorEffect_straddle n s hoff hn]
    exact .inr ⟨hoff, rfl, Nat.mod_eq_of_lt (by omega)⟩
  · rw [xorEffect_within n s hoff]
    exact .inl ⟨hoff, rfl, Nat.mod_eq_of_lt (by omega)⟩

/-! ### The state a command ends in -/

/-- Where a command ends: `exec_cases` with its outcome named. -/
theorem exec_next_cases {i : Instr} {s t : State} (h : exec i s = .next t) :
    (∃ c, c ≠ .ok ∧ t = complete c s) ∨
    (∃ len, i = .xor len ∧ Streaming s ∧ 64 - s.offset.val < len.toNat ∧ s.exh = true ∧
      t = complete .counterOverflow { s with fsm := .overflow }) ∨
    (i = .nop ∧ t = complete .ok s) ∨
    (i = .init 32 8 ∧ t = complete .ok (newInstance s)) ∨
    (∃ b, i = .seek b ∧ s.fsm = .initialized ∧ t = complete .ok (seekTo b s)) ∨
    (∃ len, i = .xor len ∧ len.toNat ≤ 4 ∧ Streaming s ∧ ¬ (64 - s.offset.val < len.toNat ∧ s.exh = true) ∧
      t = complete .ok (xorEffect len.toNat s)) ∨
    (i = .hash ∧ t = complete .ok { s with h := coreFunction s.h }) ∨
    (i = .clear ∧ t = complete .ok (zeroize s)) := by
  have heq {u : State} (hu : exec i s = .next u) : t = u := eq_of_exec_eq_next h hu
  rcases exec_cases i s with ⟨c, hc, hu⟩ | ⟨len, hi, hf, ho, he, hu⟩ | ⟨hi, hu⟩ | ⟨hi, hu⟩ | ⟨b, hi, hf, hu⟩ |
    ⟨len, hi, hl, hf, hx, hu⟩ | ⟨hi, hu⟩ | ⟨hi, hu⟩
  · exact .inl ⟨c, hc, heq hu⟩
  · exact .inr (.inl ⟨len, hi, hf, ho, he, heq hu⟩)
  · exact .inr (.inr (.inl ⟨hi, heq hu⟩))
  · exact .inr (.inr (.inr (.inl ⟨hi, heq hu⟩)))
  · exact .inr (.inr (.inr (.inr (.inl ⟨b, hi, hf, heq hu⟩))))
  · exact .inr (.inr (.inr (.inr (.inr (.inl ⟨len, hi, hl, hf, hx, heq hu⟩)))))
  · exact .inr (.inr (.inr (.inr (.inr (.inr (.inl ⟨hi, heq hu⟩))))))
  · exact .inr (.inr (.inr (.inr (.inr (.inr (.inr ⟨hi, heq hu⟩))))))

/-- Every command completes: no meaning stops or refuses. -/
theorem exec_eq_next (i : Instr) (s : State) : ∃ t, exec i s = .next t := by
  rcases exec_succeeds_or_fails i s with ⟨_, h⟩ | ⟨_, -, h⟩ | ⟨_, -, -, -, -, h⟩
  all_goals exact ⟨_, h⟩

/-! ### The state a step answers -/

/-- A completion that is due, of a legal word or of an illegal one. -/
theorem coreStep_next_cases {s t : State} (h : coreStep s = .next t) :
    (∃ i, decode s.pcmd = .ok i ∧ exec i s = .next t) ∨
    (∃ r, decode s.pcmd = .error r ∧ t = complete .illegalCommand s) := by
  rcases coreStep_cases s with ⟨i, hi, hstep⟩ | ⟨r, hr, hstep⟩
  · exact .inl ⟨i, hi, hstep.symm.trans h⟩
  · exact .inr ⟨r, hr, Host.Outcome.next.inj (h.symm.trans hstep)⟩

/-- The three kinds of step, with the state answered: a reset, a completion that is due, and the host's input, which leaves
the registers of `SameInstance` alone. -/
theorem step_next_cases {s t : State} (h : step s = .next t) :
    (s.inputs.head? = some .reset ∧ ∃ rest, s.inputs = .reset :: rest ∧ t = { applyReset s with inputs := rest }) ∨
    (s.inputs.head? ≠ some .reset ∧ s.busy = true ∧ s.latencyLeft = 0 ∧ coreStep s = .next t) ∨
    (s.inputs.head? ≠ some .reset ∧ (s.busy = false ∨ s.latencyLeft ≠ 0) ∧ t = hostAction (coreTick s) ∧
      SameInstance s t) := by
  rcases step_cases s with ⟨hr, hstep⟩ | ⟨hr, hb, hl, hstep⟩ | ⟨hr, hidle, hstep⟩
  · obtain ⟨rest, hin, hhost⟩ := hostAction_reset s hr
    exact .inl ⟨hr, rest, hin, (Host.Outcome.next.inj (h.symm.trans hstep)).trans hhost⟩
  · exact .inr (.inl ⟨hr, hb, hl, hstep.symm.trans h⟩)
  · obtain rfl := Host.Outcome.next.inj (h.symm.trans hstep)
    have hr' : (coreTick s).inputs.head? ≠ some .reset := by rwa [coreTick_inputs]
    exact .inr (.inr ⟨hr, hidle, rfl, (coreTick_sameInstance s).trans (hostAction_sameInstance _ hr')⟩)

section
variable {s : State} {rest : List Input}

theorem hostAction_nil (h : s.inputs = []) : hostAction s = s := by unfold hostAction; rw [h]

theorem hostAction_idle (h : s.inputs = .idle :: rest) : hostAction s = { s with inputs := rest } := by
  unfold hostAction; rw [h]

theorem hostAction_read {off : BitVec 8} (h : s.inputs = .read off :: rest) :
    hostAction s = { portRead off s with inputs := rest } := by
  unfold hostAction; rw [h]

theorem hostAction_write {off : BitVec 8} {v : Word} (h : s.inputs = .write off v :: rest) :
    hostAction s = { portWrite off v s with inputs := rest } := by
  unfold hostAction; rw [h]

/-- A WAIT reads STATUS, and stays while BUSY = 1 (R102). -/
theorem hostAction_wait (h : s.inputs = .wait :: rest) :
    hostAction s =
      { s with reads := statusWord s :: s.reads, inputs := if s.busy = true then s.inputs else rest } := by
  unfold hostAction
  rw [h]
  dsimp only
  rw [portRead_status, statusWord_busy]
  split
  · rw [← h]
  · rfl

/-- A wait for IRQ stays until IRQ = 1 (R79). -/
theorem hostAction_waitIrq (h : s.inputs = .waitIrq :: rest) :
    hostAction s = if s.done = true ∧ s.ie = true then { s with inputs := rest } else s := by
  unfold hostAction
  rw [h]
  simp only [irq, Bool.and_eq_true]

end

/-- What the host's input can do where it is no reset: a read, a write, or nothing but the list of inputs. -/
theorem hostAction_cases (s : State) (h : s.inputs.head? ≠ some .reset) :
    ∃ u rest, hostAction s = { u with inputs := rest } ∧ (rest = s.inputs ∨ rest = s.inputs.tail) ∧
      (u = s ∨ (∃ off, u = portRead off s) ∨ ∃ off v, s.inputs = .write off v :: rest ∧ u = portWrite off v s) := by
  match hi : s.inputs with
  | [] => exact ⟨s, _, hostAction_nil hi, .inl hi, .inl rfl⟩
  | .idle :: rest => exact ⟨s, rest, hostAction_idle hi, .inr rfl, .inl rfl⟩
  | .read off :: rest => exact ⟨_, rest, hostAction_read hi, .inr rfl, .inr (.inl ⟨off, rfl⟩)⟩
  | .write off v :: rest => exact ⟨_, rest, hostAction_write hi, .inr rfl, .inr (.inr ⟨off, v, rfl, rfl⟩)⟩
  | .wait :: rest =>
    refine ⟨_, _, hostAction_wait hi, ?_, .inr (.inl ⟨Slot.status.offset, (portRead_status s).symm⟩)⟩
    cases s.busy
    · exact .inr rfl
    · exact .inl hi
  | .waitIrq :: rest =>
    by_cases hirq : s.done = true ∧ s.ie = true
    · exact ⟨s, rest, (hostAction_waitIrq hi).trans (if_pos hirq), .inr rfl, .inl rfl⟩
    · exact ⟨s, _, (hostAction_waitIrq hi).trans (if_neg hirq), .inl hi, .inl rfl⟩
  | .reset :: rest => rw [hi] at h; exact absurd rfl h

/-- Settles O47: a host input answers a next state, and so does every completion. -/
theorem noStepStops : Obligations.NoStepStops := by
  intro s
  rcases step_cases s with ⟨-, h⟩ | ⟨-, -, -, h⟩ | ⟨-, -, h⟩
  · exact ⟨_, h⟩
  · rcases coreStep_cases s with ⟨i, -, hi⟩ | ⟨-, -, hr⟩
    · obtain ⟨t, ht⟩ := exec_eq_next i s
      exact ⟨t, h.trans (hi.trans ht)⟩
    · exact ⟨_, h.trans hr⟩
  · exact ⟨_, h⟩

end Sys2Proof.Machine
end

section
/-! The block's invariant: reset meets it and every step keeps it (10_state.md R26 to R39, 42_keystream_commands.md R160). -/

namespace Sys2Proof.Machine

/-! ### The invariant as an update sees it -/

/-- The stream invariant does not speak of what a completion writes. -/
theorem streamInv_complete (c : ResultCode) (s : State) : StreamInv (complete c s) ↔ StreamInv s := Iff.rfl

theorem ResultCode.number_le_five (c : ResultCode) : c.number.toNat ≤ 5 := by cases c <;> decide

/-- Every completion leaves the handshake in order, whatever it was before. -/
theorem handshakeInv_complete (c : ResultCode) (s : State) : HandshakeInv (complete c s) :=
  ⟨nofun, fun _ => rfl, c.number_le_five⟩

theorem StreamInv.blockInv_complete {s : State} (h : StreamInv s) (c : ResultCode) : BlockInv (complete c s) :=
  ⟨(streamInv_complete c s).2 h, handshakeInv_complete c s⟩

section
variable {s : State}

theorem streamInv_uninit (hf : s.fsm = .uninit) : StreamInv s ↔
    s.key = Words8.zero ∧ s.nonce = Words2.zero ∧ s.ctr = 0 ∧ s.exh = false ∧ s.ks = Words16.zero ∧ s.offset = 64 ∧
      s.dout = 0 := by
  unfold StreamInv; rw [hf]

theorem streamInv_initialized (hf : s.fsm = .initialized) : StreamInv s ↔
    s.exh = false ∧ s.ks = Words16.zero ∧ s.offset = 64 ∧ s.dout = 0 := by
  unfold StreamInv; rw [hf]

theorem streamInv_generating (hf : s.fsm = .generating) : StreamInv s ↔
    s.ks = block s.key s.nonce (s.ctr - 1) ∧ 0 < s.offset.val ∧ (s.exh = true ↔ s.ctr = 0) := by
  unfold StreamInv; rw [hf]

theorem streamInv_overflow (hf : s.fsm = .overflow) : StreamInv s ↔
    s.ks = block s.key s.nonce (s.ctr - 1) ∧ s.exh = true ∧ s.ctr = 0 := by
  unfold StreamInv; rw [hf]

end

/-! ### Reset -/

theorem blockInv_applyReset (s : State) (rest : List Input) : BlockInv { applyReset s with inputs := rest } :=
  ⟨(streamInv_uninit rfl).2 ⟨rfl, rfl, rfl, rfl, rfl, rfl, rfl⟩, nofun, fun _ => rfl, Nat.zero_le 5⟩

/-- Settles O45: the reset state is uninitialized with every register 0, OFFSET 64 and no command pending. -/
theorem resetMeetsTheInvariant : Obligations.ResetMeetsTheInvariant :=
  ⟨(streamInv_uninit rfl).2 ⟨rfl, rfl, rfl, rfl, rfl, rfl, rfl⟩, nofun, fun _ => rfl, Nat.zero_le 5⟩

/-! ### The commands' effects keep the stream invariant -/

/-- The counter wraps exactly where the next one is 0. -/
theorem wraps_iff_nextCtr_eq_zero (c : BitVec 64) : wraps c = true ↔ nextCtr c = 0 := by
  have hlt := c.isLt
  rw [wraps_iff, ← BitVec.toNat_inj, nextCtr_toNat, BitVec.ofNat_eq_ofNat, BitVec.toNat_zero]
  omega

/-- The buffer after a refill holds the block before CTR. -/
theorem nextCtr_sub_one (c : BitVec 64) : nextCtr c - 1 = c := BitVec.add_sub_cancel c 1

theorem streamInv_newInstance (s : State) : StreamInv (newInstance s) :=
  (streamInv_initialized rfl).2 ⟨rfl, rfl, rfl, rfl⟩

theorem streamInv_zeroize (s : State) : StreamInv (zeroize s) :=
  (streamInv_uninit rfl).2 ⟨rfl, rfl, rfl, rfl, rfl, rfl, rfl⟩

/-- A state that has just generated the block of c, and has consumed some of it, meets the invariant. -/
theorem streamInv_of_generated {t : State} {c : BitVec 64} (hfsm : t.fsm = .generating)
    (hks : t.ks = block t.key t.nonce c) (hctr : t.ctr = nextCtr c) (hexh : t.exh = wraps c)
    (hoff : 0 < t.offset.val) : StreamInv t := by
  refine (streamInv_generating hfsm).2 ⟨?_, hoff, ?_⟩
  · rw [hctr, nextCtr_sub_one, hks]
  · rw [hexh, hctr, wraps_iff_nextCtr_eq_zero]

theorem streamInv_seekTo {s : State} (b : BitVec 6) (hs : StreamInv s) (hf : s.fsm = .initialized) :
    StreamInv (seekTo b s) := by
  by_cases hb : b = 0
  · obtain ⟨-, hks, -, hdout⟩ := (streamInv_initialized hf).1 hs
    rw [hb, seekTo_zero]
    exact (streamInv_initialized (by exact hf)).2 ⟨rfl, hks, rfl, hdout⟩
  · rw [seekTo_ne b s hb]
    refine streamInv_of_generated rfl rfl rfl rfl (Nat.pos_of_ne_zero fun h => hb ?_)
    exact BitVec.eq_of_toNat_eq h

/-- An XOR that is not refused refills only where EXH = 0. -/
theorem exh_eq_false_of_straddle {s : State} {n : Nat} (hx : ¬ (64 - s.offset.val < n ∧ s.exh = true))
    (hoff : 64 < s.offset.val + n) : s.exh = false :=
  Bool.eq_false_iff.2 fun hexh => hx ⟨by omega, hexh⟩

/-- An XOR that is not refused: in INITIALIZED the buffer is empty, so within the buffer it is XOR 0. -/
theorem streamInv_xorEffect {s : State} {n : Nat} (hs : StreamInv s) (hf : Streaming s) (hn : n ≤ 64)
    (hx : ¬ (64 - s.offset.val < n ∧ s.exh = true)) : StreamInv (xorEffect n s) := by
  rcases xorEffect_stream s hn with ⟨hoff, heq, hval⟩ | ⟨hoff, heq, hval⟩
  · rcases hf with hf | hf
    · obtain ⟨hexh, hks, hfull, -⟩ := (streamInv_initialized hf).1 hs
      obtain rfl : n = 0 := by rw [hfull] at hoff; simpa using hoff
      rw [xorEffect_zero]
      exact (streamInv_initialized (by exact hf)).2 ⟨hexh, hks, hfull, rfl⟩
    · obtain ⟨hks, hpos, hexh⟩ := (streamInv_generating hf).1 hs
      rw [heq]
      exact (streamInv_generating (by exact hf)).2 ⟨hks, hval ▸ Nat.add_pos_left hpos n, hexh⟩
  · rw [heq]
    refine streamInv_of_generated (c := s.ctr) rfl rfl rfl ?_ (hval ▸ Nat.sub_pos_of_lt hoff)
    rw [refill_exh, exh_eq_false_of_straddle hx hoff, Bool.false_or]

/-- Where EXH = 1, CTR has wrapped to 0 and the buffer holds the last block. -/
theorem StreamInv.of_exh {s : State} (hs : StreamInv s) (hexh : s.exh = true) :
    (s.fsm = .generating ∨ s.fsm = .overflow) ∧ s.ks = block s.key s.nonce (s.ctr - 1) ∧ s.ctr = 0 := by
  cases hf : s.fsm with
  | uninit =>
    obtain ⟨-, -, -, h, -⟩ := (streamInv_uninit hf).1 hs
    exact absurd (hexh.symm.trans h) nofun
  | initialized =>
    obtain ⟨h, -⟩ := (streamInv_initialized hf).1 hs
    exact absurd (hexh.symm.trans h) nofun
  | generating =>
    obtain ⟨hks, -, hctr⟩ := (streamInv_generating hf).1 hs
    exact ⟨.inl rfl, hks, hctr.1 hexh⟩
  | overflow =>
    obtain ⟨hks, -, hctr⟩ := (streamInv_overflow hf).1 hs
    exact ⟨.inr rfl, hks, hctr⟩

/-- The XOR that finds the keystream exhausted leaves the last block in the buffer. -/
theorem streamInv_toOverflow {s : State} (hs : StreamInv s) (hexh : s.exh = true) :
    StreamInv { s with fsm := .overflow } := by
  obtain ⟨-, hks, hctr⟩ := hs.of_exh hexh
  exact (streamInv_overflow rfl).2 ⟨hks, hexh, hctr⟩

/-- Every command keeps the block's invariant. -/
theorem blockInv_of_exec {i : Instr} {s t : State} (hs : StreamInv s) (h : exec i s = .next t) : BlockInv t := by
  rcases exec_next_cases h with ⟨c, -, rfl⟩ | ⟨_, -, -, -, hexh, rfl⟩ | ⟨-, rfl⟩ | ⟨-, rfl⟩ | ⟨b, -, hf, rfl⟩ |
    ⟨len, -, hlen, hf, hx, rfl⟩ | ⟨-, rfl⟩ | ⟨-, rfl⟩
  · exact hs.blockInv_complete c
  · exact (streamInv_toOverflow hs hexh).blockInv_complete _
  · exact hs.blockInv_complete _
  · exact (streamInv_newInstance s).blockInv_complete _
  · exact (streamInv_seekTo b hs hf).blockInv_complete _
  · exact (streamInv_xorEffect hs hf (by omega) hx).blockInv_complete _
  · exact StreamInv.blockInv_complete (s := { s with h := coreFunction s.h }) hs _
  · exact (streamInv_zeroize s).blockInv_complete _

/-! ### The host keeps the handshake invariant -/

theorem handshakeInv_coreTick {s : State} (hs : HandshakeInv s) : HandshakeInv (coreTick s) := by
  obtain ⟨hdone, hlat, herr⟩ := hs
  refine ⟨by simpa using hdone, fun hbusy => ?_, by simpa using herr⟩
  rw [coreTick_busy] at hbusy
  simpa [hbusy] using hlat hbusy

theorem handshakeInv_portRead {s : State} (off : BitVec 8) (hs : HandshakeInv s) : HandshakeInv (portRead off s) := by
  unfold HandshakeInv at *
  simpa using hs

/-- A write lowers DONE, or starts a command with DONE = 0, or touches neither flag. -/
theorem handshakeInv_portWrite {s : State} (off : BitVec 8) (v : Word) (hs : HandshakeInv s) :
    HandshakeInv (portWrite off v s) := by
  obtain ⟨hdone, hlat, herr⟩ := hs
  rcases portWrite_cases off v s with ⟨-, -, h⟩ | ⟨-, h⟩ <;> rw [h]
  · exact ⟨hdone, hlat, herr⟩
  · cases slotOf off with
    | status => exact ⟨fun hbusy => by rw [writeSlot, writeStatus_done, hdone hbusy, Bool.false_and], hlat, herr⟩
    | cmd => exact ⟨fun _ => rfl, nofun, herr⟩
    | _ => exact ⟨hdone, hlat, herr⟩

theorem handshakeInv_hostAction {s : State} (hs : HandshakeInv s) (hr : s.inputs.head? ≠ some .reset) :
    HandshakeInv (hostAction s) := by
  obtain ⟨u, rest, heq, -, hu⟩ := hostAction_cases s hr
  rw [heq]
  show HandshakeInv u
  rcases hu with rfl | ⟨off, rfl⟩ | ⟨off, v, -, rfl⟩
  · exact hs
  · exact handshakeInv_portRead off hs
  · exact handshakeInv_portWrite off v hs

/-! ### Every step -/

theorem blockInv_of_coreStep {s t : State} (hs : StreamInv s) (h : coreStep s = .next t) : BlockInv t := by
  rcases coreStep_next_cases h with ⟨i, -, hi⟩ | ⟨-, -, rfl⟩
  · exact blockInv_of_exec hs hi
  · exact hs.blockInv_complete _

/-- Settles O46: a reset by `blockInv_applyReset`, a completion by `blockInv_of_coreStep`; a host input leaves the
registers of the stream invariant alone and keeps the handshake. -/
theorem everyStepKeepsTheInvariant : Obligations.EveryStepKeepsTheInvariant := by
  rintro s t ⟨hstream, hhand⟩ h
  rcases step_next_cases h with ⟨-, rest, -, rfl⟩ | ⟨-, -, -, hcore⟩ | ⟨hr, -, rfl, hsame⟩
  · exact blockInv_applyReset s rest
  · exact blockInv_of_coreStep hstream hcore
  · exact ⟨hsame.streamInv hstream, handshakeInv_hostAction (handshakeInv_coreTick hhand) (by rwa [coreTick_inputs])⟩

end Sys2Proof.Machine
end

section
/-! Commands on two related states: a relation that each effect keeps, and that makes both states take the same branch, is
kept by every command. -/

namespace Sys2Proof.Machine

/-- Two outcomes are next states that R relates. -/
def NextBoth (R : State → State → Prop) (o o' : Host.Outcome State Fault Refusal) : Prop :=
  ∃ s t, o = .next s ∧ o' = .next t ∧ R s t

/-- The effects of the commands keep R, and R fixes the command and what decides how it ends: FSM, EXH and OFFSET. -/
structure CommandCongruence (R : State → State → Prop) : Prop where
  pcmd {s t : State} : R s t → s.pcmd = t.pcmd
  fsm {s t : State} : R s t → s.fsm = t.fsm
  exh {s t : State} : R s t → s.exh = t.exh
  offset {s t : State} : R s t → s.offset = t.offset
  complete (c : ResultCode) {s t : State} : R s t → R (complete c s) (complete c t)
  newInstance {s t : State} : R s t → R (newInstance s) (newInstance t)
  seekTo (b : BitVec 6) {s t : State} : R s t → R (seekTo b s) (seekTo b t)
  xorEffect {n : Nat} (hn : n ≤ 64) {s t : State} : R s t → R (xorEffect n s) (xorEffect n t)
  toOverflow {s t : State} : R s t → R { s with fsm := .overflow } { t with fsm := .overflow }
  hash {s t : State} : R s t → R { s with h := coreFunction s.h } { t with h := coreFunction t.h }
  zeroize {s t : State} : R s t → R (zeroize s) (zeroize t)

namespace CommandCongruence

variable {R : State → State → Prop} (hR : CommandCongruence R) {s t : State}
include hR

theorem nextBoth_complete (h : R s t) (c : ResultCode) :
    NextBoth R (.next (Machine.complete c s)) (.next (Machine.complete c t)) :=
  ⟨_, _, rfl, rfl, hR.complete c h⟩

theorem nextBoth_execInit (h : R s t) (klen nlen : BitVec 8) :
    NextBoth R (execInit klen nlen s) (execInit klen nlen t) := by
  unfold execInit
  split_ifs
  · exact hR.nextBoth_complete h _
  · exact hR.nextBoth_complete h _
  · exact hR.nextBoth_complete (hR.newInstance h) _

theorem nextBoth_execSeek (h : R s t) (b : BitVec 6) : NextBoth R (execSeek b s) (execSeek b t) := by
  unfold execSeek
  rw [hR.fsm h]
  cases t.fsm with
  | uninit | generating | overflow => exact hR.nextBoth_complete h _
  | initialized => exact hR.nextBoth_complete (hR.seekTo b h) _

theorem nextBoth_execXor (h : R s t) (len : BitVec 3) : NextBoth R (execXor len s) (execXor len t) := by
  have hn : byteCount len ≤ 64 := by unfold byteCount; omega
  have hx : exhausted (byteCount len) s = exhausted (byteCount len) t := by
    rw [exhausted, exhausted, hR.offset h, hR.exh h]
  unfold execXor
  rw [hR.fsm h, hx]
  split
  · exact hR.nextBoth_complete h _
  · cases t.fsm with
    | uninit | overflow => exact hR.nextBoth_complete h _
    | initialized | generating =>
      dsimp only
      split
      · exact hR.nextBoth_complete (hR.toOverflow h) _
      · exact hR.nextBoth_complete (hR.xorEffect hn h) _

theorem nextBoth_exec (h : R s t) (i : Instr) : NextBoth R (exec i s) (exec i t) := by
  cases i with
  | nop => exact hR.nextBoth_complete h _
  | init klen nlen => exact hR.nextBoth_execInit h klen nlen
  | seek b => exact hR.nextBoth_execSeek h b
  | xor len => exact hR.nextBoth_execXor h len
  | hash => exact hR.nextBoth_complete (hR.hash h) _
  | clear => exact hR.nextBoth_complete (hR.zeroize h) _

theorem nextBoth_coreStep (h : R s t) : NextBoth R (coreStep s) (coreStep t) := by
  unfold coreStep
  rw [hR.pcmd h]
  cases decode t.pcmd with
  | ok i => exact hR.nextBoth_exec h i
  | error r => exact hR.nextBoth_complete h _

end CommandCongruence

end Sys2Proof.Machine
end

section
/-! Noninterference: timing, errors and IRQ do not depend on secrets (70_reset_and_hazards.md R219), and no transaction gives
the key back (20_memory.md section 3). -/

namespace Sys2Proof.Machine

/-! ### Public equality as a change of secrets -/

/-- s with the secret and unobserved fields of x: all that `PublicEq` leaves out (R219). -/
def State.withSecretsOf (s x : State) : State :=
  { s with
    key := x.key, nonce := x.nonce, ks := x.ks, keyIn := x.keyIn, nonceIn := x.nonceIn, din := x.din, dout := x.dout,
    h := x.h, work := x.work, roundPos := x.roundPos, reads := x.reads }

theorem publicEq_iff_eq_withSecretsOf {s t : State} : PublicEq s t ↔ t = s.withSecretsOf t := by
  constructor
  · intro h
    simp only [State.withSecretsOf, h.ctr, h.exh, h.fsm, h.offset, h.ctrsetLo, h.ctrsetHi, h.busy, h.done, h.werr, h.err,
      h.ie, h.pcmd, h.latencyLeft, h.draws, h.inputs]
  · intro h
    rw [h]
    exact ⟨rfl, rfl, rfl, rfl, rfl, rfl, rfl, rfl, rfl, rfl, rfl, rfl, rfl, rfl, rfl⟩

/-- To compare f on two publicly equal states, compare it on s and on s with other secrets. -/
theorem PublicEq.elim {s t : State} {p : State → Prop} (h : PublicEq s t) (hp : ∀ x, p (s.withSecretsOf x)) : p t := by
  rw [publicEq_iff_eq_withSecretsOf.1 h]
  exact hp t

/-- An update that reads no secret into a public field leaves public equality. -/
theorem PublicEq.map {f : State → State} {s t : State} (h : PublicEq s t)
    (hf : ∀ x, f (s.withSecretsOf x) = (f s).withSecretsOf (f (s.withSecretsOf x))) : PublicEq (f s) (f t) :=
  h.elim (p := fun t => PublicEq (f s) (f t)) fun x => publicEq_iff_eq_withSecretsOf.2 (hf x)

section
variable {s t : State}

theorem PublicEq.complete (h : PublicEq s t) (c : ResultCode) : PublicEq (complete c s) (complete c t) :=
  h.map fun _ => rfl

theorem PublicEq.withInputs (h : PublicEq s t) (l : List Input) :
    PublicEq { s with inputs := l } { t with inputs := l } :=
  h.map (f := fun s => { s with inputs := l }) fun _ => rfl

theorem PublicEq.coreTick (h : PublicEq s t) : PublicEq (coreTick s) (coreTick t) := by
  refine h.map fun x => ?_
  cases hb : s.busy
  · rw [coreTick_of_idle s hb, coreTick_of_idle (s.withSecretsOf x) hb]; rfl
  · rw [coreTick_of_pending s hb, coreTick_of_pending (s.withSecretsOf x) hb]; rfl

end

/-! ### Commands -/

/-- Whether SEEK and XOR generate a block depends on BOFF, OFFSET and LEN alone, so only KS and DOUT see the secrets. -/
theorem commandCongruence_publicEq : CommandCongruence PublicEq where
  pcmd h := h.pcmd
  fsm h := h.fsm
  exh h := h.exh
  offset h := h.offset
  complete c _ _ h := h.complete c
  newInstance h := h.map fun _ => rfl
  seekTo b s _ h := by
    refine h.map fun x => ?_
    by_cases hb : b = 0
    · rw [hb]; rfl
    · rw [seekTo_ne b s hb, seekTo_ne b _ hb]; rfl
  xorEffect {n} hn s _ h := by
    refine h.map fun x => ?_
    rcases Nat.lt_or_ge 64 (s.offset.val + n) with hoff | hoff
    · rw [xorEffect_straddle n s hoff hn, xorEffect_straddle n (s.withSecretsOf x) hoff hn]; rfl
    · rw [xorEffect_within n s hoff, xorEffect_within n (s.withSecretsOf x) hoff]; rfl
  toOverflow h := h.map (f := fun s => { s with fsm := .overflow }) fun _ => rfl
  hash h := h.map (f := fun s => { s with h := coreFunction s.h }) fun _ => rfl
  zeroize h := h.map fun _ => rfl

section
variable {s t : State}

/-! ### Transactions -/

theorem PublicEq.portRead (h : PublicEq s t) (off : BitVec 8) : PublicEq (portRead off s) (portRead off t) := by
  refine h.map (f := Machine.portRead off) fun x => ?_
  have hfree : ((s.withSecretsOf x).busy && resultSlot (s.withSecretsOf x).pcmd (slotOf off)) =
    (s.busy && resultSlot s.pcmd (slotOf off)) := rfl
  unfold Machine.portRead
  rw [hfree]
  split <;> rfl

theorem PublicEq.portWrite (h : PublicEq s t) (off : BitVec 8) (v : Word) :
    PublicEq (portWrite off v s) (portWrite off v t) := by
  refine h.map (f := Machine.portWrite off v) fun x => ?_
  have hdrop : ((s.withSecretsOf x).busy && (slotOf off).isFrozen) = (s.busy && (slotOf off).isFrozen) := rfl
  unfold Machine.portWrite
  rw [hdrop]
  split
  · rfl
  · cases slotOf off <;> rfl

theorem PublicEq.statusWord (h : PublicEq s t) : statusWord s = statusWord t :=
  h.elim (p := fun t => Machine.statusWord s = Machine.statusWord t) fun _ => rfl

theorem PublicEq.irq (h : PublicEq s t) : irq s = irq t :=
  h.elim (p := fun t => Machine.irq s = Machine.irq t) fun _ => rfl

theorem PublicEq.hostAction (h : PublicEq s t) : PublicEq (hostAction s) (hostAction t) := by
  unfold Machine.hostAction
  rw [h.inputs, h.statusWord, h.irq]
  match t.inputs with
  | [] => exact h
  | .idle :: rest => exact h.withInputs rest
  | .read off :: rest => exact (h.portRead off).withInputs rest
  | .write off v :: rest => exact (h.portWrite off v).withInputs rest
  | .wait :: rest =>
    dsimp only
    split
    · exact h.portRead _
    · exact (h.portRead _).withInputs rest
  | .waitIrq :: rest =>
    dsimp only
    split
    · exact h.withInputs rest
    · exact h
  | .reset :: rest => exact (h.map (f := applyReset) fun _ => rfl).withInputs rest

/-- Which agent moves, and what it does, is the same for two states that look the same. -/
theorem nextBoth_step (h : PublicEq s t) : NextBoth PublicEq (step s) (step t) := by
  have hreset : resetPending s = resetPending t := by rw [resetPending, resetPending, h.inputs]
  have hdue : completionDue s = completionDue t := by rw [completionDue, completionDue, h.busy, h.latencyLeft]
  unfold step transition
  rw [hreset, hdue]
  split_ifs
  · exact ⟨_, _, rfl, rfl, h.hostAction⟩
  · exact commandCongruence_publicEq.nextBoth_coreStep h
  · exact ⟨_, _, rfl, rfl, h.coreTick.hostAction⟩

end

/-- Settles O57: by `nextBoth_step`; IRQ is DONE and CTRL.IE, which are public. -/
theorem timingAndErrorsHideSecrets : Obligations.TimingAndErrorsHideSecrets := by
  intro s t h
  obtain ⟨s', t', hs, ht, hpub⟩ := nextBoth_step h
  exact ⟨s', t', hs, ht, hpub, hpub.irq⟩

/-! ### The key cannot be read back -/

section
variable (k kin : Words8) (s : State)

/-- No slot gives KEY, and KEY_IN reads 0. -/
theorem portRead_withKeys (off : BitVec 8) : portRead off (withKeys k kin s) = withKeys k kin (portRead off s) := by
  have hfree : ((withKeys k kin s).busy && resultSlot (withKeys k kin s).pcmd (slotOf off)) =
    (s.busy && resultSlot s.pcmd (slotOf off)) := rfl
  have hvalue : slotValue (withKeys k kin s) (slotOf off) = slotValue s (slotOf off) := by cases slotOf off <;> rfl
  unfold portRead
  rw [hfree, hvalue]
  split <;> rfl

/-- A write to a KEY_IN slot changes KEY_IN in its own word; every other write leaves both keys. -/
theorem portWrite_withKeys (off : BitVec 8) (v : Word) :
    ∃ kin', portWrite off v (withKeys k kin s) = withKeys k kin' (portWrite off v s) := by
  have hdrop : ((withKeys k kin s).busy && (slotOf off).isFrozen) = (s.busy && (slotOf off).isFrozen) := rfl
  unfold portWrite
  rw [hdrop]
  split
  · exact ⟨kin, rfl⟩
  · cases slotOf off with
    | keyIn i => exact ⟨kin.set i v, rfl⟩
    | _ => exact ⟨kin, rfl⟩

theorem coreTick_withKeys : coreTick (withKeys k kin s) = withKeys k kin (coreTick s) := by
  cases hb : s.busy
  · rw [coreTick_of_idle s hb, coreTick_of_idle (withKeys k kin s) hb]
  · rw [coreTick_of_pending s hb, coreTick_of_pending (withKeys k kin s) hb]; rfl

/-- A host input on another key leaves the same state but for another key. -/
theorem hostAction_withKeys : ∃ k' kin', hostAction (withKeys k kin s) = withKeys k' kin' (hostAction s) := by
  have hin : (withKeys k kin s).inputs = s.inputs := rfl
  match hi : s.inputs with
  | [] => exact ⟨k, kin, by rw [hostAction_nil hi, hostAction_nil (hin.trans hi)]⟩
  | .idle :: rest => exact ⟨k, kin, by rw [hostAction_idle hi, hostAction_idle (hin.trans hi)]; rfl⟩
  | .read off :: rest =>
    exact ⟨k, kin, by rw [hostAction_read hi, hostAction_read (hin.trans hi), portRead_withKeys]; rfl⟩
  | .write off v :: rest =>
    obtain ⟨kin', hkin⟩ := portWrite_withKeys k kin s off v
    exact ⟨k, kin', by rw [hostAction_write hi, hostAction_write (hin.trans hi), hkin]; rfl⟩
  | .wait :: rest => exact ⟨k, kin, by rw [hostAction_wait hi, hostAction_wait (hin.trans hi)]; rfl⟩
  | .waitIrq :: rest =>
    refine ⟨k, kin, ?_⟩
    rw [hostAction_waitIrq hi, hostAction_waitIrq (hin.trans hi)]
    show (if s.done = true ∧ s.ie = true then _ else _) = _
    split <;> rfl
  | .reset :: rest =>
    obtain ⟨_, hrest, h⟩ := hostAction_reset s (by rw [hi]; rfl)
    obtain ⟨_, hrest', h'⟩ := hostAction_reset (withKeys k kin s) (by rw [hin, hi]; rfl)
    obtain ⟨-, rfl⟩ := List.cons.inj (hrest.symm.trans hrest')
    exact ⟨Words8.zero, Words8.zero, by rw [h, h']; rfl⟩

end

/-- Settles O22: which agent moves does not depend on the keys, and a host input commutes with a change of keys
(`hostAction_withKeys`), which neither `reads` nor IRQ sees. -/
theorem keyCannotBeReadBack : Obligations.KeyCannotBeReadBack := by
  intro s k kin hstep
  rcases step_cases s with ⟨hr, hs⟩ | ⟨hr, hb, hl, -⟩ | ⟨hr, hidle, hs⟩
  · rcases step_cases (withKeys k kin s) with ⟨-, hk⟩ | ⟨hr', -⟩ | ⟨hr', -⟩
    · obtain ⟨k', kin', h⟩ := hostAction_withKeys k kin s
      exact ⟨_, _, hs, hk.trans (congrArg _ h), rfl, rfl⟩
    · exact absurd hr hr'
    · exact absurd hr hr'
  · rcases hstep with h | h | h
    · exact absurd (hb.symm.trans h) nofun
    · exact absurd hl h
    · exact absurd h hr
  · rcases step_cases (withKeys k kin s) with ⟨hr', -⟩ | ⟨-, hb, hl, -⟩ | ⟨-, -, hk⟩
    · exact absurd hr' hr
    · rcases hidle with h | h
      · exact absurd (hb.symm.trans h) nofun
      · exact absurd hl h
    · obtain ⟨k', kin', h⟩ := hostAction_withKeys k kin (coreTick s)
      rw [coreTick_withKeys, h] at hk
      exact ⟨_, _, hs, hk, rfl, rfl⟩

end Sys2Proof.Machine
end

section
/-! What one step does: the host's input, a completion, a reset (20_memory.md R60, R78; 41_control_commands.md R140;
70_reset_and_hazards.md R210), and what a pending command's registers see of it (R65, R218). -/

namespace Sys2Proof.Machine

/-! ### The three kinds of step -/

section
variable {s : State}

theorem step_of_due (hr : s.inputs.head? ≠ some .reset) (hbusy : s.busy = true) (hlat : s.latencyLeft = 0) :
    step s = coreStep s := by
  rcases step_cases s with ⟨h, -⟩ | ⟨-, -, -, h⟩ | ⟨-, h | h, -⟩
  · exact absurd h hr
  · exact h
  · exact absurd (hbusy.symm.trans h) nofun
  · exact absurd hlat h

theorem step_of_not_due (hr : s.inputs.head? ≠ some .reset) (hidle : s.busy = false ∨ s.latencyLeft ≠ 0) :
    step s = .next (hostAction (coreTick s)) := by
  rcases step_cases s with ⟨h, -⟩ | ⟨-, hbusy, hlat, -⟩ | ⟨-, -, h⟩
  · exact absurd h hr
  · rcases hidle with h | h
    · exact absurd (hbusy.symm.trans h) nofun
    · exact absurd hlat h
  · exact h

theorem coreStep_of_ok {i : Instr} (h : decode s.pcmd = .ok i) : coreStep s = exec i s := by
  unfold coreStep; rw [h]

theorem coreStep_of_error {r : Reject} (h : decode s.pcmd = .error r) :
    coreStep s = .next (complete .illegalCommand s) := by
  unfold coreStep; rw [h]; rfl

end

/-- Settles O24: a step whose completion is due is CoreStep(), which runs the decoded command. -/
theorem stepRunsTheDecodedCommand : Obligations.StepRunsTheDecodedCommand :=
  fun _ _ hr hbusy hlat hi => (step_of_due hr hbusy hlat).trans (coreStep_of_ok hi)

/-- Settles O25: the same of an illegal word; the latency was 0 already. -/
theorem stepCompletesAnIllegalWord : Obligations.StepCompletesAnIllegalWord := by
  intro s r hr hbusy hlat hi
  rw [step_of_due hr hbusy hlat, coreStep_of_error hi, complete, ← hlat]
  rfl

/-- Settles O59: the step is the reset, which comes before a completion that is due. -/
theorem resetAbortsAndResetsEverything : Obligations.ResetAbortsAndResetsEverything := by
  intro s rest hin
  rcases step_cases s with ⟨hr, hstep⟩ | ⟨hr, -⟩ | ⟨hr, -⟩
  · obtain ⟨rest', hin', hhost⟩ := hostAction_reset s hr
    obtain ⟨-, rfl⟩ := List.cons.inj (hin.symm.trans hin')
    exact ⟨_, hstep.trans (congrArg _ hhost), rfl, rfl⟩
  · rw [hin] at hr; exact absurd rfl hr
  · rw [hin] at hr; exact absurd rfl hr

/-- Where no completion is due, the step is what the host's input does on the state the core has ticked to. -/
theorem step_eq_of_hostAction {s u : State} (hidle : s.busy = false ∨ s.latencyLeft ≠ 0) (hr : s.inputs.head? ≠ some .reset)
    (hhost : hostAction (coreTick s) = u) : step s = .next u :=
  (step_of_not_due hr hidle).trans (congrArg _ hhost)

/-- Settles O23: `step_eq_of_hostAction` at each input; with no command pending the core does not tick. -/
theorem idleStepPerformsTheHostInput : Obligations.IdleStepPerformsTheHostInput := by
  refine ⟨fun s rest hbusy => ?idle, fun s rest hbusy hlat => ?pending⟩
  case idle =>
    have hstep {u : State} (hr : s.inputs.head? ≠ some .reset) (hhost : hostAction s = u) : step s = .next u :=
      step_eq_of_hostAction (.inl hbusy) hr (by rwa [coreTick_of_idle s hbusy])
    refine ⟨fun h => ?_, fun h => ?_, fun off h => ?_, fun off v h => ?_, fun h => ?_, fun h => ?_⟩
    · exact hstep (by simp [h]) (hostAction_nil h)
    · exact hstep (by simp [h]) (hostAction_idle h)
    · exact hstep (by simp [h]) (hostAction_read h)
    · exact hstep (by simp [h]) (hostAction_write h)
    · exact hstep (by simp [h]) (by rw [hostAction_wait h, hbusy]; rfl)
    · exact hstep (by simp [h]) (hostAction_waitIrq h)
  case pending =>
    refine ⟨Config.freeWork s.draws, Config.freeRoundPos s.draws, fun t ht => ?_⟩
    obtain rfl : coreTick s = t := (coreTick_of_pending s hbusy).trans ht.symm
    have hstep {u : State} (hr : s.inputs.head? ≠ some .reset) (hhost : hostAction (coreTick s) = u) :
        step s = .next u := step_eq_of_hostAction (.inr hlat) hr hhost
    have hin : (coreTick s).inputs = s.inputs := coreTick_inputs s
    refine ⟨fun h => ?_, fun h => ?_, fun off h => ?_, fun off v h => ?_, fun h => ?_, fun h => ?_⟩
    · exact hstep (by simp [h]) (hostAction_nil (hin.trans h))
    · exact hstep (by simp [h]) (hostAction_idle (hin.trans h))
    · exact hstep (by simp [h]) (hostAction_read (hin.trans h))
    · exact hstep (by simp [h]) (hostAction_write (hin.trans h))
    · refine hstep (by simp [h]) ?_
      have hstatus : statusWord (coreTick s) = statusWord s := by simp [statusWord]
      rw [hostAction_wait (hin.trans h), hstatus, coreTick_reads, coreTick_busy, hbusy, if_pos rfl]
    · refine hstep (by simp [h]) ?_
      rw [hostAction_waitIrq (hin.trans h), coreTick_done, coreTick_ie]

/-! ### The interrupt (R50, R190) -/

/-- Settles O54: a STATUS write with bit 1 set and an accepted CMD write both lower DONE, and IRQ is DONE and CTRL.IE. -/
theorem acknowledgeDropsTheInterrupt : Obligations.AcknowledgeDropsTheInterrupt := by
  have hdrop {t : State} (hdone : t.done = false) : t.done = false ∧ irq t = false :=
    ⟨hdone, by rw [irq, hdone, Bool.false_and]⟩
  refine ⟨fun s => Bool.and_eq_true_iff, fun s off v hoff hbit => hdrop ?_, fun s off v hoff hidle => hdrop ?_⟩
  · rw [portWrite_status hoff, writeStatus_done, hbit, Bool.not_true, Bool.and_false]
  · rw [portWrite_idle off v s hidle, slotOf_cmd off hoff]; rfl

/-! ### What a pending command's registers see of the host (R65) -/

/-- Two states agree on every register that a command reads or writes, and on ERR. -/
structure SameRegisters (s t : State) : Prop extends SameInstance s t where
  pcmd : t.pcmd = s.pcmd
  keyIn : t.keyIn = s.keyIn
  nonceIn : t.nonceIn = s.nonceIn
  ctrsetLo : t.ctrsetLo = s.ctrsetLo
  ctrsetHi : t.ctrsetHi = s.ctrsetHi
  din : t.din = s.din
  h : t.h = s.h

theorem SameRegisters.refl (s : State) : SameRegisters s s := ⟨.refl s, rfl, rfl, rfl, rfl, rfl, rfl, rfl⟩

theorem SameRegisters.trans {s t u : State} (h : SameRegisters s t) (g : SameRegisters t u) : SameRegisters s u :=
  ⟨h.toSameInstance.trans g.toSameInstance, g.pcmd.trans h.pcmd, g.keyIn.trans h.keyIn, g.nonceIn.trans h.nonceIn,
    g.ctrsetLo.trans h.ctrsetLo, g.ctrsetHi.trans h.ctrsetHi, g.din.trans h.din, g.h.trans h.h⟩

/-- The command pending in s is pending in t, on the same registers and with the same latency left. -/
structure SamePending (s t : State) : Prop extends SameRegisters s t where
  busy : t.busy = s.busy
  latencyLeft : t.latencyLeft = s.latencyLeft

theorem samePending_portRead (off : BitVec 8) (s : State) : SamePending s (portRead off s) :=
  ⟨⟨portRead_sameInstance off s, by simp, by simp, by simp, by simp, by simp, by simp, by simp⟩, by simp, by simp⟩

/-- While BUSY = 1 a write is dropped, or reaches CTRL or STATUS, or has no effect. -/
theorem portWrite_pending_cases (off : BitVec 8) (v : Word) {s : State} (hbusy : s.busy = true) :
    portWrite off v s = { s with werr := true } ∨ portWrite off v s = { s with ie := v.getLsbD 0 } ∨
      portWrite off v s = writeStatus v s ∨ portWrite off v s = s := by
  rcases portWrite_cases off v s with ⟨-, -, h⟩ | ⟨hidle | hopen, h⟩
  · exact .inl h
  · exact absurd (hbusy.symm.trans hidle) nofun
  · generalize slotOf off = sl at hopen h
    cases sl with
    | ctrl => exact .inr (.inl h)
    | status => exact .inr (.inr (.inl h))
    | dout | ctrLo | ctrHi | ks _ | reserved => exact .inr (.inr (.inr h))
    | cmd | din | ctrsetLo | ctrsetHi | keyIn _ | nonceIn _ | h _ => exact absurd hopen nofun

theorem samePending_portWrite (off : BitVec 8) (v : Word) {s : State} (hbusy : s.busy = true) :
    SamePending s (portWrite off v s) := by
  rcases portWrite_pending_cases off v hbusy with h | h | h | h
  all_goals
    rw [h]
    exact ⟨⟨⟨rfl, rfl, rfl, rfl, rfl, rfl, rfl, rfl, rfl⟩, rfl, rfl, rfl, rfl, rfl, rfl, rfl⟩, rfl, rfl⟩

theorem samePending_hostAction {s : State} (hbusy : s.busy = true) (hr : s.inputs.head? ≠ some .reset) :
    SamePending s (hostAction s) ∧ ((hostAction s).inputs = s.inputs ∨ (hostAction s).inputs = s.inputs.tail) := by
  obtain ⟨u, rest, heq, hrest, hu⟩ := hostAction_cases s hr
  rw [heq]
  refine ⟨?_, hrest⟩
  have hsame : SamePending s u := by
    rcases hu with rfl | ⟨off, rfl⟩ | ⟨off, v, -, rfl⟩
    · exact ⟨.refl u, rfl, rfl⟩
    · exact samePending_portRead off s
    · exact samePending_portWrite off v hbusy
  exact ⟨⟨hsame.toSameInstance.withInputs rest, hsame.pcmd, hsame.keyIn, hsame.nonceIn, hsame.ctrsetLo, hsame.ctrsetHi,
    hsame.din, hsame.h⟩, hsame.busy, hsame.latencyLeft⟩

theorem sameRegisters_coreTick (s : State) : SameRegisters s (coreTick s) :=
  ⟨coreTick_sameInstance s, by simp, by simp, by simp, by simp, by simp, by simp, by simp⟩

/-- A step while a command is pending and not due: its registers stay, its latency counts down, and the host's list of
inputs stays or loses its first. -/
theorem pending_step {s t : State} (hbusy : s.busy = true) (hlat : s.latencyLeft ≠ 0)
    (hr : s.inputs.head? ≠ some .reset) (h : step s = .next t) :
    SameRegisters s t ∧ t.busy = true ∧ t.latencyLeft = s.latencyLeft - 1 ∧
      (t.inputs = s.inputs ∨ t.inputs = s.inputs.tail) := by
  obtain rfl := Host.Outcome.next.inj (h.symm.trans (step_of_not_due hr (.inr hlat)))
  obtain ⟨hsame, hin⟩ := samePending_hostAction (s := coreTick s) (by rwa [coreTick_busy]) (by rwa [coreTick_inputs])
  refine ⟨(sameRegisters_coreTick s).trans hsame.toSameRegisters, ?_, ?_, by rwa [coreTick_inputs] at hin⟩
  · rw [hsame.busy, coreTick_busy, hbusy]
  · rw [hsame.latencyLeft, coreTick_latencyLeft, if_pos hbusy]

/-- Settles O55: `pending_step`, field by field. -/
theorem pendingCommandFreezesItsRegisters : Obligations.PendingCommandFreezesItsRegisters := by
  intro s t hbusy hlat hr h
  obtain ⟨hsame, hbusy', hlat', -⟩ := pending_step hbusy hlat hr h
  exact ⟨hbusy', hsame.pcmd, hlat', hsame.err, hsame.key, hsame.nonce, hsame.ctr, hsame.exh, hsame.fsm, hsame.ks,
    hsame.offset, hsame.keyIn, hsame.nonceIn, hsame.ctrsetLo, hsame.ctrsetHi, hsame.din, hsame.dout, hsame.h⟩

/-! ### A command's results depend on its registers alone -/

/-- s with the fields of x that no command reads: the handshake's flags, the internal state and the model's own fields. -/
def State.withControlOf (s x : State) : State :=
  { s with
    busy := x.busy, done := x.done, werr := x.werr, ie := x.ie, work := x.work, roundPos := x.roundPos,
    latencyLeft := x.latencyLeft, draws := x.draws, inputs := x.inputs, reads := x.reads }

theorem sameRegisters_iff_eq_withControlOf {s t : State} : SameRegisters s t ↔ t = s.withControlOf t := by
  constructor
  · intro h
    simp only [State.withControlOf, ← h.key, ← h.nonce, ← h.ctr, ← h.exh, ← h.fsm, ← h.ks, ← h.offset, ← h.dout, ← h.err,
      ← h.pcmd, ← h.keyIn, ← h.nonceIn, ← h.ctrsetLo, ← h.ctrsetHi, ← h.din, ← h.h]
  · intro h
    rw [h]
    exact ⟨⟨rfl, rfl, rfl, rfl, rfl, rfl, rfl, rfl, rfl⟩, rfl, rfl, rfl, rfl, rfl, rfl, rfl⟩

/-- An update that reads no control field into a register keeps the registers the same. -/
theorem SameRegisters.map {f : State → State} {s t : State} (h : SameRegisters s t)
    (hf : ∀ x, f (s.withControlOf x) = (f s).withControlOf (f (s.withControlOf x))) : SameRegisters (f s) (f t) := by
  rw [sameRegisters_iff_eq_withControlOf.1 h]
  exact sameRegisters_iff_eq_withControlOf.2 (hf t)

theorem advance_withControlOf (s x : State) : advance (s.withControlOf x) = (advance s).withControlOf x := by
  by_cases h : s.offset = 64
  · rw [advance_of_eq s h, advance_of_eq (s.withControlOf x) h]; rfl
  · rw [advance_of_ne s h, advance_of_ne (s.withControlOf x) h]; rfl

theorem upcoming_withControlOf (s x : State) (k : Nat) : upcoming (s.withControlOf x) k = upcoming s k := rfl

theorem xorBytes_withControlOf (n j : Nat) (out : Word) (s x : State) :
    xorBytes n j out (s.withControlOf x) = ((xorBytes n j out s).1.withControlOf x, (xorBytes n j out s).2) := by
  induction n generalizing j out s with
  | zero => rfl
  | succ n ih =>
    rw [xorBytes_succ, xorBytes_succ, advance_withControlOf, ih, refillIfEmpty_din, refillIfEmpty_din,
      nextKeystreamByte_eq, nextKeystreamByte_eq, upcoming_withControlOf]
    rfl

theorem commandCongruence_sameRegisters : CommandCongruence SameRegisters where
  pcmd h := h.pcmd.symm
  fsm h := h.fsm.symm
  exh h := h.exh.symm
  offset h := h.offset.symm
  complete c _ _ h := h.map (f := Machine.complete c) fun _ => rfl
  newInstance h := h.map fun _ => rfl
  seekTo b s _ h := by
    refine h.map fun x => ?_
    by_cases hb : b = 0
    · rw [hb]; rfl
    · rw [seekTo_ne b s hb, seekTo_ne b _ hb]; rfl
  xorEffect {n} _ s _ h := by
    refine h.map fun x => ?_
    simp only [Machine.xorEffect, xorBytes_withControlOf]
    rfl
  toOverflow h := h.map (f := fun s => { s with fsm := .overflow }) fun _ => rfl
  hash h := h.map (f := fun s => { s with h := coreFunction s.h }) fun _ => rfl
  zeroize h := h.map fun _ => rfl

/-! ### A pending command completes (R218) -/

theorem coreStep_completes {s t : State} (h : coreStep s = .next t) : t.busy = false ∧ t.done = true := by
  rcases coreStep_next_cases h with ⟨i, -, hi⟩ | ⟨-, -, rfl⟩
  · rcases exec_next_cases hi with ⟨_, -, rfl⟩ | ⟨_, -, -, -, -, rfl⟩ | ⟨-, rfl⟩ | ⟨-, rfl⟩ | ⟨_, -, -, rfl⟩ |
      ⟨_, -, -, -, -, rfl⟩ | ⟨-, rfl⟩ | ⟨-, rfl⟩
    all_goals exact ⟨rfl, rfl⟩
  · exact ⟨rfl, rfl⟩

/-- One step of a run, of any machine. -/
theorem run_succ_of_step (M : Host.Core) {s t : M.State} (h : M.step s = .next t) (n : Nat) :
    Host.Core.run M (n + 1) s = Host.Core.run M n t := by
  rw [Host.Core.run, h]

theorem core_run_succ {s t : State} (h : step s = .next t) (n : Nat) :
    Host.Core.run Sys2Proof.core (n + 1) s = Host.Core.run Sys2Proof.core n t :=
  run_succ_of_step Sys2Proof.core h n

/-- With no reset among the first n + 2 inputs, none is among the first n + 1 after a step that used at most one. -/
theorem no_reset_after_step {l l' : List Input} {n : Nat} (hl : ∀ x ∈ l.take (n + 2), x ≠ .reset)
    (hl' : l' = l ∨ l' = l.tail) : ∀ x ∈ l'.take (n + 1), x ≠ .reset := by
  intro x hx
  refine hl x ?_
  rcases hl' with rfl | rfl
  · exact (List.take_prefix_take_left (by omega)).subset hx
  · cases l with
    | nil => simp at hx
    | cons y ys => exact List.mem_cons_of_mem y hx

theorem head?_ne_reset {l : List Input} {n : Nat} (hl : ∀ x ∈ l.take (n + 1), x ≠ .reset) :
    l.head? ≠ some .reset := by
  cases l with
  | nil => nofun
  | cons y ys => exact fun h => hl y List.mem_cons_self (Option.some.inj h)

/-- The command pending with n steps of latency left completes after n + 1 steps, with the results it gives now: each step
before keeps its registers, and its results are a function of them. -/
theorem pending_run (n : Nat) {s : State} (hbusy : s.busy = true) (hlat : s.latencyLeft = n)
    (hin : ∀ x ∈ s.inputs.take (n + 1), x ≠ .reset) :
    ∃ t u, Host.Core.run Sys2Proof.core (n + 1) s = .next t ∧ t.busy = false ∧ t.done = true ∧ coreStep s = .next u ∧
      SameRegisters u t := by
  induction n generalizing s with
  | zero =>
    obtain ⟨t, ht⟩ := noStepStops s
    have hcore : coreStep s = .next t := (step_of_due (head?_ne_reset hin) hbusy hlat).symm.trans ht
    obtain ⟨hbusy', hdone⟩ := coreStep_completes hcore
    exact ⟨t, t, core_run_succ ht 0, hbusy', hdone, hcore, .refl t⟩
  | succ n ih =>
    obtain ⟨s', hs'⟩ := noStepStops s
    obtain ⟨hsame, hbusy', hlat', hinputs⟩ := pending_step hbusy (by omega) (head?_ne_reset hin) hs'
    obtain ⟨t, u', hrun, hidle, hdone, hu', ht⟩ := ih hbusy' (by omega) (no_reset_after_step hin hinputs)
    obtain ⟨u, u'', hu, hu'', hres⟩ := commandCongruence_sameRegisters.nextBoth_coreStep hsame
    obtain rfl := Host.Outcome.next.inj (hu'.symm.trans hu'')
    exact ⟨t, u, (core_run_succ hs' (n + 1)).trans hrun, hidle, hdone, hu, hres.trans ht⟩

/-- Settles O56: `pending_run`, field by field. -/
theorem pendingCommandCompletes : Obligations.PendingCommandCompletes := by
  intro s hbusy hin
  obtain ⟨t, u, hrun, hidle, hdone, hu, hsame⟩ := pending_run s.latencyLeft hbusy rfl hin
  exact ⟨t, u, hrun, hidle, hdone, hu, hsame.err, hsame.fsm, hsame.key, hsame.nonce, hsame.ctr, hsame.exh, hsame.ks,
    hsame.offset, hsame.keyIn, hsame.nonceIn, hsame.ctrsetLo, hsame.ctrsetHi, hsame.din, hsame.dout, hsame.h⟩

end Sys2Proof.Machine
end

section
/-! The commands, one by one (41_control_commands.md, 42_keystream_commands.md), their frame, and the FSM transition table
(R145). -/

namespace Sys2Proof.Machine

/-! ### INIT, SEEK and HASH (R141, R142, R162) -/

theorem exec_init (s : State) : exec (.init 32 8) s = .next (complete .ok (newInstance s)) := rfl

/-- Settles O31: the completion of INIT's effects, in every FSM state. -/
theorem initBuildsANewInstance : Obligations.InitBuildsANewInstance := exec_init

theorem exec_seek_initialized (b : BitVec 6) {s : State} (hf : s.fsm = .initialized) :
    exec (.seek b) s = .next (complete .ok (seekTo b s)) := by
  rw [exec, execSeek, hf]; rfl

theorem exec_seek_invalidState (b : BitVec 6) {s : State} (hf : s.fsm = .uninit ∨ s.fsm = .generating) :
    exec (.seek b) s = .next (complete .invalidState s) := by
  rw [exec, execSeek]
  rcases hf with hf | hf <;> rw [hf] <;> rfl

theorem exec_seek_overflow (b : BitVec 6) {s : State} (hf : s.fsm = .overflow) :
    exec (.seek b) s = .next (complete .counterOverflow s) := by
  rw [exec, execSeek, hf]; rfl

/-- The counter wraps where both its words are all ones. -/
theorem wraps_append (hi lo : Word) : wraps (hi ++ lo) = decide (lo = 0xFFFFFFFF ∧ hi = 0xFFFFFFFF) := by
  have hlo := lo.isLt
  have hhi := hi.isLt
  rw [Bool.eq_iff_iff, wraps_iff, decide_eq_true_iff, toNat_append_eq, ← BitVec.toNat_inj, ← BitVec.toNat_inj]
  show _ ↔ lo.toNat = 4294967295 ∧ hi.toNat = 4294967295
  omega

/-- Settles O33: SEEK's effect without and with a byte offset (`seekTo_zero`, `seekTo_ne`). -/
theorem seekSetsTheStreamPosition : Obligations.SeekSetsTheStreamPosition := by
  intro b s hf
  refine ⟨fun hb => ?_, fun hb => ⟨complete .ok (seekTo b s), ?_, exec_seek_initialized b hf, ?_⟩⟩
  · rw [exec_seek_initialized b hf, hb, seekTo_zero]; rfl
  · rw [seekTo_ne b s hb]; rfl
  · rw [seekTo_ne b s hb, startCounter, wraps_append]; rfl

/-- Settles O34: SEEK is refused by the FSM state alone. -/
theorem seekRefusedOutsideInitialized : Obligations.SeekRefusedOutsideInitialized :=
  fun b _ => ⟨exec_seek_invalidState b, exec_seek_overflow b⟩

/-- Settles O36: the completion of HASH is `exec_hash`; the core of a layout is its block. -/
theorem hashAppliesTheCore : Obligations.HashAppliesTheCore := by
  refine ⟨rfl, exec_hash, fun s key nonce c hlayout => ⟨_, exec_hash s, ?_⟩, coreFunction_zero, coreFunction_range⟩
  rw [complete_h, hlayout, block]

/-! ### XOR (R161) -/

section
variable {len : BitVec 3} {s : State}

theorem byteCount_gt_iff : byteCount len > Config.xorMaxBytes ↔ 4 < len.toNat := Iff.rfl

theorem exec_xor_of_gt (hlen : 4 < len.toNat) : exec (.xor len) s = .next (complete .illegalCommand s) := by
  rw [exec, execXor, if_pos (byteCount_gt_iff.2 hlen)]; rfl

theorem exec_xor_uninit (hlen : len.toNat ≤ 4) (hf : s.fsm = .uninit) :
    exec (.xor len) s = .next (complete .invalidState s) := by
  rw [exec, execXor, if_neg (mt byteCount_gt_iff.1 (Nat.not_lt.2 hlen)), hf]; rfl

theorem exec_xor_overflow (hlen : len.toNat ≤ 4) (hf : s.fsm = .overflow) :
    exec (.xor len) s = .next (complete .counterOverflow s) := by
  rw [exec, execXor, if_neg (mt byteCount_gt_iff.1 (Nat.not_lt.2 hlen)), hf]; rfl

theorem exec_xor_streaming (hlen : len.toNat ≤ 4) (hf : Streaming s) :
    exec (.xor len) s =
      if exhausted len.toNat s then .next (complete .counterOverflow { s with fsm := .overflow })
      else .next (complete .ok (xorEffect len.toNat s)) := by
  rw [exec, execXor, if_neg (mt byteCount_gt_iff.1 (Nat.not_lt.2 hlen))]
  rcases hf with hf | hf <;> rw [hf] <;> rfl

theorem exhausted_iff {n : Nat} : exhausted n s = true ↔ 64 - s.offset.val < n ∧ s.exh = true := by
  rw [exhausted, Bool.and_eq_true, decide_eq_true_iff]; rfl

theorem exec_xor_exhausted (hlen : len.toNat ≤ 4) (hf : Streaming s)
    (hx : 64 - s.offset.val < len.toNat ∧ s.exh = true) :
    exec (.xor len) s = .next (complete .counterOverflow { s with fsm := .overflow }) := by
  rw [exec_xor_streaming hlen hf, if_pos (exhausted_iff.2 hx)]

theorem exec_xor_ok (hlen : len.toNat ≤ 4) (hf : Streaming s)
    (hx : ¬ (64 - s.offset.val < len.toNat ∧ s.exh = true)) :
    exec (.xor len) s = .next (complete .ok (xorEffect len.toNat s)) := by
  rw [exec_xor_streaming hlen hf, if_neg (mt exhausted_iff.1 hx)]

end

/-- Settles O37: the four refusals, whose conditions XOR tests in this order. -/
theorem xorErrorsInOrder : Obligations.XorErrorsInOrder :=
  fun _ _ => ⟨exec_xor_of_gt, exec_xor_uninit, exec_xor_overflow, fun hlen hf hoff hexh => exec_xor_exhausted hlen hf ⟨hoff, hexh⟩⟩

/-- Settles O38: the bytes are `xorEffect_dout`, the keystream registers `xorEffect_stream`. -/
theorem xorCombinesDataWithKeystream : Obligations.XorCombinesDataWithKeystream := by
  intro len s hlen hf hx
  refine ⟨_, exec_xor_ok hlen hf hx, fun j hj => ?_, fun j hj hj4 => ?_, ?_⟩
  · exact (xorEffect_dout _ s hlen j (by omega)).trans (if_pos hj)
  · exact (xorEffect_dout _ s hlen j hj4).trans (if_neg (by omega))
  rcases xorEffect_stream s (n := len.toNat) (by omega) with ⟨hoff, heq, hval⟩ | ⟨hoff, heq, hval⟩
  · refine ⟨fun _ => ⟨hval, ?_⟩, fun h => absurd hoff (Nat.not_le.2 h)⟩
    exact congrArg (complete .ok) heq
  · refine ⟨fun h => absurd h (Nat.not_le.2 hoff), fun _ => ⟨hval, ?_⟩⟩
    have hexh : (s.exh || wraps s.ctr) = decide (s.ctr = 0xFFFFFFFFFFFFFFFF) := by
      rw [exh_eq_false_of_straddle hx hoff, Bool.false_or]; rfl
    rw [← hexh]
    exact congrArg (complete .ok) heq

/-! ### The frame of all commands -/

/-- Two states agree on what no command writes: CTRL.IE, WERR, PCMD, the internal state and the host's record. -/
structure SameControl (s t : State) : Prop where
  ie : t.ie = s.ie
  werr : t.werr = s.werr
  pcmd : t.pcmd = s.pcmd
  work : t.work = s.work
  roundPos : t.roundPos = s.roundPos
  draws : t.draws = s.draws
  inputs : t.inputs = s.inputs
  reads : t.reads = s.reads

/-- Every command ends as the completion of a state that agrees with the one before on what no command writes. -/
theorem exec_next_complete {i : Instr} {s t : State} (h : exec i s = .next t) :
    ∃ c u, t = complete c u ∧ SameControl s u := by
  rcases exec_next_cases h with ⟨c, -, rfl⟩ | ⟨_, -, -, -, -, rfl⟩ | ⟨-, rfl⟩ | ⟨-, rfl⟩ | ⟨b, -, -, rfl⟩ |
    ⟨len, -, -, -, -, rfl⟩ | ⟨-, rfl⟩ | ⟨-, rfl⟩
  · exact ⟨c, s, rfl, rfl, rfl, rfl, rfl, rfl, rfl, rfl, rfl⟩
  · exact ⟨_, _, rfl, rfl, rfl, rfl, rfl, rfl, rfl, rfl, rfl⟩
  · exact ⟨_, _, rfl, rfl, rfl, rfl, rfl, rfl, rfl, rfl, rfl⟩
  · exact ⟨_, _, rfl, rfl, rfl, rfl, rfl, rfl, rfl, rfl, rfl⟩
  · exact ⟨_, _, rfl, seekTo_ie b s, seekTo_werr b s, seekTo_pcmd b s, seekTo_work b s, seekTo_roundPos b s,
      seekTo_draws b s, seekTo_inputs b s, seekTo_reads b s⟩
  · exact ⟨_, _, rfl, xorEffect_ie _ s, xorEffect_werr _ s, xorEffect_pcmd _ s, xorEffect_work _ s, xorEffect_roundPos _ s,
      xorEffect_draws _ s, xorEffect_inputs _ s, xorEffect_reads _ s⟩
  · exact ⟨_, _, rfl, rfl, rfl, rfl, rfl, rfl, rfl, rfl, rfl⟩
  · exact ⟨_, _, rfl, rfl, rfl, rfl, rfl, rfl, rfl, rfl, rfl⟩

/-- Settles O26: every command answers a next state, which is a completion by `exec_next_complete`. -/
theorem everyCommandCompletes : Obligations.EveryCommandCompletes := by
  intro i s
  obtain ⟨t, ht⟩ := exec_eq_next i s
  obtain ⟨c, u, rfl, hu⟩ := exec_next_complete ht
  exact ⟨_, ht, c.number_le_five, rfl, rfl, hu.ie, hu.ie, hu.werr, hu.pcmd, hu.work, hu.roundPos, hu.draws, hu.inputs,
    hu.reads⟩

/-- Settles O28: ending by ending; a failed command keeps all of them, and each success is excluded where it writes. -/
theorem commandsKeepTheOtherRegisters : Obligations.CommandsKeepTheOtherRegisters := by
  intro i s t h
  rcases exec_next_cases h with ⟨c, -, rfl⟩ | ⟨_, rfl, -, -, -, rfl⟩ | ⟨rfl, rfl⟩ | ⟨rfl, rfl⟩ | ⟨b, rfl, -, rfl⟩ |
    ⟨len, rfl, -, -, -, rfl⟩ | ⟨rfl, rfl⟩ | ⟨rfl, rfl⟩
  all_goals simp

end Sys2Proof.Machine
end

section
/-! The FSM transition table (41_control_commands.md R145). -/

namespace Sys2Proof.Machine

theorem endsIn_complete {o : Host.Outcome State Fault Refusal} {c : ResultCode} {u : State}
    (h : o = .next (complete c u)) : EndsIn o u.fsm c.number := ⟨_, h, rfl, rfl⟩

/-- An XOR that is not refused generates exactly if the buffer has fewer than n bytes. -/
theorem xorEffect_fsm {n : Nat} (s : State) (hn : n ≤ 64) :
    (xorEffect n s).fsm = if n ≤ 64 - s.offset.val then s.fsm else .generating := by
  have hlt := s.offset.isLt
  rcases xorEffect_stream s hn with ⟨hoff, heq, -⟩ | ⟨hoff, heq, -⟩
  · rw [if_pos (by omega), heq]
  · rw [if_neg (by omega), heq, refill_fsm]

/-- The rows of SEEK: refused by the FSM state, and in INITIALIZED as `seekTo_fsm`. -/
theorem endsIn_seek (s : State) (b : BitVec 6) :
    (s.fsm = .uninit → EndsIn (exec (.seek b) s) .uninit 4) ∧
    (s.fsm = .initialized → b = 0 → EndsIn (exec (.seek b) s) .initialized 0) ∧
    (s.fsm = .initialized → b ≠ 0 → EndsIn (exec (.seek b) s) .generating 0) ∧
    (s.fsm = .generating → EndsIn (exec (.seek b) s) .generating 4) ∧
    (s.fsm = .overflow → EndsIn (exec (.seek b) s) .overflow 3) := by
  refine ⟨fun hf => ?_, fun hf hb => ?_, fun hf hb => ?_, fun hf => ?_, fun hf => ?_⟩
  · exact hf ▸ endsIn_complete (exec_seek_invalidState b (.inl hf))
  · have h := endsIn_complete (exec_seek_initialized b hf)
    rwa [seekTo_fsm, if_pos hb, hf] at h
  · have h := endsIn_complete (exec_seek_initialized b hf)
    rwa [seekTo_fsm, if_neg hb] at h
  · exact hf ▸ endsIn_complete (exec_seek_invalidState b (.inr hf))
  · exact hf ▸ endsIn_complete (exec_seek_overflow b hf)

/-- The rows of XOR: refused by the FSM state, and where it streams by the bytes in the buffer and EXH. -/
theorem endsIn_xor (s : State) (len : BitVec 3) (hlen : len.toNat ≤ 4) :
    (s.fsm = .uninit → EndsIn (exec (.xor len) s) .uninit 4) ∧
    (s.fsm = .overflow → EndsIn (exec (.xor len) s) .overflow 3) ∧
    (s.fsm = .initialized ∨ s.fsm = .generating →
      (len.toNat ≤ 64 - s.offset.val → EndsIn (exec (.xor len) s) s.fsm 0) ∧
      (len.toNat > 64 - s.offset.val → s.exh = false → EndsIn (exec (.xor len) s) .generating 0) ∧
      (len.toNat > 64 - s.offset.val → s.exh = true → EndsIn (exec (.xor len) s) .overflow 3)) := by
  refine ⟨fun hf => hf ▸ endsIn_complete (exec_xor_uninit hlen hf),
    fun hf => hf ▸ endsIn_complete (exec_xor_overflow hlen hf), fun hf => ⟨fun hfits => ?_, fun hneeds hexh => ?_,
      fun hneeds hexh => endsIn_complete (exec_xor_exhausted hlen hf ⟨hneeds, hexh⟩)⟩⟩
  · have h := endsIn_complete (exec_xor_ok hlen hf fun hx => absurd hx.1 (Nat.not_lt.2 hfits))
    rwa [xorEffect_fsm s (by omega), if_pos hfits] at h
  · have h := endsIn_complete (exec_xor_ok hlen hf fun hx => absurd (hexh.symm.trans hx.2) nofun)
    rwa [xorEffect_fsm s (by omega), if_neg (Nat.not_le.2 hneeds)] at h

/-- Settles O39: each row is the completion of its command, of an illegal word, or a reset. -/
theorem fsmTransitionTable : Obligations.FsmTransitionTable := by
  refine ⟨fun s => endsIn_complete (exec_init s), fun s k n hk => ?_, fun s n hn => ?_, endsIn_seek, endsIn_xor,
    fun s => ⟨endsIn_complete (exec_hash s), endsIn_complete (exec_nop s), endsIn_complete (u := zeroize s) rfl⟩,
    fun s r hr => endsIn_complete (coreStep_of_error hr), fun s => ⟨rfl, rfl⟩⟩
  · exact endsIn_complete (c := .invalidKeyLength) (u := s) ((initRefusesOtherLengths k n s).1 hk)
  · exact endsIn_complete (c := .invalidNonceLength) (u := s) ((initRefusesOtherLengths 32 n s).2 rfl hn)

end Sys2Proof.Machine
end

section
/-! The result slots of a command: reads while it is pending (20_memory.md R66), and the slots that read after it as before. -/

namespace Sys2Proof.Machine

/-! ### The opcode and the result set of a command -/

/-- The opcode of a command (R92). -/
def opcode : Instr → BitVec 8
  | .nop => 0
  | .init _ _ => 1
  | .seek _ => 2
  | .xor _ => 3
  | .hash => 4
  | .clear => 5

@[simp] theorem fieldOp_encode (i : Instr) : fieldOp (encode i) = opcode i := by
  cases i <;> exact fieldOp_assembleFields ..

theorem fieldOp_of_decode {w : Word} {i : Instr} (h : decode w = .ok i) : fieldOp w = opcode i := by
  rw [← fieldOp_encode, (encodeOfDecodeIsTheWord w i h).2]

/-- The slots a command's rule writes on success: W(PCMD), by command (R66). -/
def writtenSlot : Instr → Slot → Bool
  | .nop, _ => false
  | .init _ _, sl | .xor _, sl => sl == .dout || sl.isCounter || sl.isKs
  | .seek _, sl => sl.isCounter || sl.isKs
  | .hash, sl => sl.isHash
  | .clear, sl => sl.isCleared

theorem resultSlot_eq_writtenSlot {w : Word} {i : Instr} (h : fieldOp w = opcode i) (sl : Slot) :
    resultSlot w sl = writtenSlot i sl := by
  unfold resultSlot
  rw [h]
  cases i <;> rfl

/-! ### The offsets of the result slots (R44) -/

theorem isDout_slotOf_iff : ∀ off : BitVec 8, (slotOf off == .dout) = true ↔ AtSlot off 0x10 := by
  unfold AtSlot; decide

theorem isCounter_slotOf_iff : ∀ off : BitVec 8, (slotOf off).isCounter = true ↔ AtSlot off 0x14 ∨ AtSlot off 0x18 := by
  unfold AtSlot; decide

theorem isKs_slotOf_iff : ∀ off : BitVec 8, (slotOf off).isKs = true ↔ 0x80 ≤ off.toNat ∧ off.toNat < 0xC0 := by decide

theorem isHash_slotOf_iff : ∀ off : BitVec 8, (slotOf off).isHash = true ↔ 0xC0 ≤ off.toNat := by decide

theorem isCleared_slotOf_iff : ∀ off : BitVec 8, (slotOf off).isCleared = true ↔
    (0x0C ≤ off.toNat ∧ off.toNat < 0x24) ∨ (0x40 ≤ off.toNat ∧ off.toNat < 0x68) ∨ 0x80 ≤ off.toNat := by decide

/-- Settles O21: a read is free exactly on the result set of the pending word, which is that of its command; its offsets are
those of R44. -/
theorem busyReadsOfResultsAreFree : Obligations.BusyReadsOfResultsAreFree := by
  intro s off i hbusy hi ctr ks written
  have hwritten : written ↔ resultSlot s.pcmd (slotOf off) = true := by
    rw [resultSlot_eq_writtenSlot (fieldOp_of_decode hi)]
    cases i with
    | nop => exact ⟨nofun, nofun⟩
    | init _ _ | xor _ =>
      simp only [written, ctr, ks, writtenSlot, Bool.or_eq_true, isDout_slotOf_iff, isCounter_slotOf_iff, isKs_slotOf_iff,
        or_assoc]
    | seek _ => simp only [written, ctr, ks, writtenSlot, Bool.or_eq_true, isCounter_slotOf_iff, isKs_slotOf_iff]
    | hash => exact (isHash_slotOf_iff off).symm
    | clear => exact (isCleared_slotOf_iff off).symm
  rw [hwritten]
  rcases portRead_cases off s with ⟨-, hfree, hread⟩ | ⟨hidle | hnot, hread⟩
  · exact ⟨fun _ => hread, fun h => absurd hfree h⟩
  · exact absurd (hbusy.symm.trans hidle) nofun
  · exact ⟨fun h => absurd (h.symm.trans hnot) nofun, fun _ => hread⟩

/-! ### The frame over the slots of the port -/

section
variable {s : State} {sl : Slot} (hstatus : sl ≠ .status)
include hstatus

theorem slotValue_complete (c : ResultCode) : slotValue (complete c s) sl = slotValue s sl := by
  cases sl with
  | status => exact absurd rfl hstatus
  | _ => rfl

theorem slotValue_toOverflow : slotValue { s with fsm := .overflow } sl = slotValue s sl := by
  cases sl with
  | status => exact absurd rfl hstatus
  | _ => rfl

theorem slotValue_newInstance {k n : BitVec 8} (hslot : writtenSlot (.init k n) sl = false) :
    slotValue (newInstance s) sl = slotValue s sl := by
  cases sl with
  | status => exact absurd rfl hstatus
  | dout | ctrLo | ctrHi | ks _ => exact absurd hslot nofun
  | _ => rfl

theorem slotValue_seekTo {b : BitVec 6} (hslot : writtenSlot (.seek b) sl = false) :
    slotValue (seekTo b s) sl = slotValue s sl := by
  rw [seekTo_frame]
  cases sl with
  | status => exact absurd rfl hstatus
  | ctrLo | ctrHi | ks _ => exact absurd hslot nofun
  | _ => rfl

theorem slotValue_xorEffect {len : BitVec 3} (hslot : writtenSlot (.xor len) sl = false) (n : Nat) :
    slotValue (xorEffect n s) sl = slotValue s sl := by
  rw [xorEffect_frame]
  cases sl with
  | status => exact absurd rfl hstatus
  | dout | ctrLo | ctrHi | ks _ => exact absurd hslot nofun
  | _ => rfl

theorem slotValue_hash (hslot : writtenSlot .hash sl = false) :
    slotValue { s with h := coreFunction s.h } sl = slotValue s sl := by
  cases sl with
  | status => exact absurd rfl hstatus
  | h _ => exact absurd hslot nofun
  | _ => rfl

theorem slotValue_zeroize (hslot : writtenSlot .clear sl = false) : slotValue (zeroize s) sl = slotValue s sl := by
  cases sl with
  | status => exact absurd rfl hstatus
  | ctrl | cmd | reserved => rfl
  | _ => exact absurd hslot nofun

end

/-- Settles O29: ending by ending, the slots that the effect writes are STATUS and those of the result set. -/
theorem otherSlotsReadAsBefore : Obligations.OtherSlotsReadAsBefore := by
  intro i s t off h hstatus hslot
  rw [resultSlot_eq_writtenSlot (fieldOp_encode i)] at hslot
  rcases exec_next_cases h with ⟨c, -, rfl⟩ | ⟨_, rfl, -, -, -, rfl⟩ | ⟨rfl, rfl⟩ | ⟨rfl, rfl⟩ | ⟨b, rfl, -, rfl⟩ |
    ⟨len, rfl, -, -, -, rfl⟩ | ⟨rfl, rfl⟩ | ⟨rfl, rfl⟩ <;> rw [slotValue_complete hstatus]
  · exact slotValue_toOverflow hstatus
  · exact slotValue_newInstance hstatus hslot
  · exact slotValue_seekTo hstatus hslot
  · exact slotValue_xorEffect hstatus hslot _
  · exact slotValue_hash hstatus hslot
  · exact slotValue_zeroize hstatus hslot

end Sys2Proof.Machine
end

section
/-! Which steps write KEY, CTR, FSM, ERR and WERR (10_state.md R23 to R39), CLEAR (41_control_commands.md R143), and that no
block is generated while EXH = 1 (R26). -/

namespace Sys2Proof.Machine

/-! ### Which commands write KEY, CTR and FSM -/

section
variable {i : Instr} {s t : State}

theorem exec_changes_key (h : exec i s = .next t) (hne : t.key ≠ s.key) :
    (i = .init 32 8 ∧ t.key = s.keyIn) ∨ (i = .clear ∧ t.key = Words8.zero) := by
  rcases exec_next_cases h with ⟨_, -, rfl⟩ | ⟨_, -, -, -, -, rfl⟩ | ⟨-, rfl⟩ | ⟨hi, rfl⟩ | ⟨b, -, -, rfl⟩ |
    ⟨len, -, -, -, -, rfl⟩ | ⟨-, rfl⟩ | ⟨hi, rfl⟩
  · exact absurd rfl hne
  · exact absurd rfl hne
  · exact absurd rfl hne
  · exact .inl ⟨hi, rfl⟩
  · exact absurd (seekTo_key b s) hne
  · exact absurd (xorEffect_key _ s) hne
  · exact absurd rfl hne
  · exact .inr ⟨hi, rfl⟩

theorem xorEffect_ctr {n : Nat} (s : State) (hn : n ≤ 64) :
    (xorEffect n s).ctr = s.ctr ∨ (xorEffect n s).ctr = s.ctr + 1 := by
  rcases xorEffect_stream s hn with ⟨-, heq, -⟩ | ⟨-, heq, -⟩ <;> rw [heq]
  · exact .inl rfl
  · exact .inr rfl

theorem exec_changes_ctr (h : exec i s = .next t) (hne : t.ctr ≠ s.ctr) :
    (i = .init 32 8 ∧ t.ctr = 0) ∨ (i = .clear ∧ t.ctr = 0) ∨
    (∃ b, i = .seek b ∧ t.ctr = if b = 0 then startCounter s else startCounter s + 1) ∨
    (∃ len, i = .xor len ∧ t.ctr = s.ctr + 1) := by
  rcases exec_next_cases h with ⟨_, -, rfl⟩ | ⟨_, -, -, -, -, rfl⟩ | ⟨-, rfl⟩ | ⟨hi, rfl⟩ | ⟨b, hi, -, rfl⟩ |
    ⟨len, hi, -, -, -, rfl⟩ | ⟨-, rfl⟩ | ⟨hi, rfl⟩
  · exact absurd rfl hne
  · exact absurd rfl hne
  · exact absurd rfl hne
  · exact .inl ⟨hi, rfl⟩
  · exact .inr (.inr (.inl ⟨b, hi, seekTo_ctr b s⟩))
  · rcases xorEffect_ctr s (n := len.toNat) (by omega) with hkeep | hnext
    · exact absurd hkeep hne
    · exact .inr (.inr (.inr ⟨len, hi, hnext⟩))
  · exact absurd rfl hne
  · exact .inr (.inl ⟨hi, rfl⟩)

theorem exec_leaves_overflow (h : exec i s = .next t) (hf : s.fsm = .overflow) (hne : t.fsm ≠ .overflow) :
    i = .init 32 8 ∨ i = .clear := by
  have hnot : ¬ Streaming s := by rintro (hf' | hf') <;> exact absurd (hf.symm.trans hf') nofun
  rcases exec_next_cases h with ⟨_, -, rfl⟩ | ⟨_, -, -, -, -, rfl⟩ | ⟨-, rfl⟩ | ⟨hi, rfl⟩ | ⟨b, -, hinit, rfl⟩ |
    ⟨len, -, -, hstream, -, rfl⟩ | ⟨-, rfl⟩ | ⟨hi, rfl⟩
  · exact absurd hf hne
  · exact absurd rfl hne
  · exact absurd hf hne
  · exact .inl hi
  · exact absurd (.inl hinit) hnot
  · exact absurd hstream hnot
  · exact absurd hf hne
  · exact .inr hi

theorem exec_returns_to_uninit (hf : s.fsm ≠ .uninit) (h : exec i s = .next t) (ht : t.fsm = .uninit) : i = .clear := by
  rcases exec_next_cases h with ⟨_, -, rfl⟩ | ⟨_, -, -, -, -, rfl⟩ | ⟨-, rfl⟩ | ⟨-, rfl⟩ | ⟨b, -, -, rfl⟩ |
    ⟨len, -, -, -, -, rfl⟩ | ⟨-, rfl⟩ | ⟨hi, rfl⟩
  · exact absurd ht hf
  · exact absurd ht nofun
  · exact absurd ht hf
  · exact absurd ht nofun
  · rw [complete_fsm, seekTo_fsm] at ht
    split at ht
    · exact absurd ht hf
    · exact absurd ht nofun
  · rw [complete_fsm, xorEffect_fsm s (by omega)] at ht
    split at ht
    · exact absurd ht hf
    · exact absurd ht nofun
  · exact absurd ht hf
  · exact hi

end

/-! ### Which steps do -/

/-- A step that changes a field that the host's inputs and a completion as such leave alone is a reset, or the due
completion of a legal command. -/
theorem step_changes_cases {α : Type} (f : State → α) (hsame : ∀ {s t}, SameInstance s t → f t = f s)
    (hcomplete : ∀ c s, f (complete c s) = f s) {s t : State} (h : step s = .next t) (hne : f t ≠ f s) :
    (s.inputs.head? = some .reset ∧ ∃ rest, t = { applyReset s with inputs := rest }) ∨
    (s.busy = true ∧ s.latencyLeft = 0 ∧ ∃ i, decode s.pcmd = .ok i ∧ exec i s = .next t) := by
  rcases step_next_cases h with ⟨hr, rest, -, ht⟩ | ⟨-, hbusy, hlat, hcore⟩ | ⟨-, -, -, hinst⟩
  · exact .inl ⟨hr, rest, ht⟩
  · rcases coreStep_next_cases hcore with hexec | ⟨-, -, rfl⟩
    · exact .inr ⟨hbusy, hlat, hexec⟩
    · exact absurd (hcomplete _ s) hne
  · exact absurd (hsame hinst) hne

/-- Settles O48: by `exec_changes_key`. -/
theorem keyIsImmutableWithinAnInstance : Obligations.KeyIsImmutableWithinAnInstance := by
  intro s t h hne
  rcases step_changes_cases State.key SameInstance.key (fun _ _ => rfl) h hne with ⟨hr, -⟩ | ⟨hbusy, hlat, i, hi, hexec⟩
  · exact .inl hr
  · refine .inr ⟨hbusy, hlat, ?_⟩
    rcases exec_changes_key hexec hne with ⟨rfl, hkey⟩ | ⟨rfl, hkey⟩
    · exact .inl ⟨hi, hkey⟩
    · exact .inr ⟨hi, hkey⟩

/-- Settles O49: by `exec_changes_ctr`. -/
theorem counterHasFiveWriters : Obligations.CounterHasFiveWriters := by
  intro s t h hne
  rcases step_changes_cases State.ctr SameInstance.ctr (fun _ _ => rfl) h hne with
    ⟨hr, -, rfl⟩ | ⟨hbusy, hlat, i, hi, hexec⟩
  · exact .inl ⟨hr, rfl⟩
  · refine .inr ⟨hbusy, hlat, ?_⟩
    rcases exec_changes_ctr hexec hne with ⟨rfl, hctr⟩ | ⟨rfl, hctr⟩ | ⟨b, rfl, hctr⟩ | ⟨len, rfl, hctr⟩
    · exact .inl ⟨hi, hctr⟩
    · exact .inr (.inl ⟨hi, hctr⟩)
    · exact .inr (.inr (.inl ⟨b, hi, hctr⟩))
    · exact .inr (.inr (.inr ⟨len, hi, hctr⟩))

/-- Settles O50: by `exec_leaves_overflow`. -/
theorem overflowIsLeftOnlyByInitClearReset : Obligations.OverflowIsLeftOnlyByInitClearReset := by
  intro s t hf h hne
  rcases step_changes_cases State.fsm SameInstance.fsm (fun _ _ => rfl) h (hf ▸ hne) with
    ⟨hr, -⟩ | ⟨hbusy, hlat, i, hi, hexec⟩
  · exact .inl hr
  · refine .inr ⟨hbusy, hlat, ?_⟩
    rcases exec_leaves_overflow hexec hf hne with rfl | rfl
    · exact .inl hi
    · exact .inr hi

/-- Settles O35: the completion of CLEAR's effects, and `exec_returns_to_uninit`. -/
theorem clearZeroizes : Obligations.ClearZeroizes := by
  refine ⟨rfl, fun s => ⟨complete .ok (zeroize s), rfl, rfl, fun hwerr => ?_⟩, fun _ _ _ => exec_returns_to_uninit,
    fun s t hf h ht => ?_⟩
  · apply BitVec.eq_of_toNat_eq
    simp [statusWord_toNat, hwerr, ResultCode.number, Fsm.code]
  · rcases step_changes_cases State.fsm SameInstance.fsm (fun _ _ => rfl) h (fun heq => hf (heq.symm.trans ht)) with
      ⟨hr, -⟩ | ⟨hbusy, hlat, i, hi, hexec⟩
    · exact .inl hr
    · obtain rfl := exec_returns_to_uninit hf hexec ht
      exact .inr ⟨hbusy, hlat, hi⟩

/-- Settles O53: a host input leaves ERR alone. -/
theorem errIsWrittenOnlyByCompletion : Obligations.ErrIsWrittenOnlyByCompletion := by
  intro s t h hne
  rcases step_next_cases h with ⟨hr, -⟩ | ⟨-, hbusy, hlat, -⟩ | ⟨-, -, -, hsame⟩
  · exact .inl hr
  · exact .inr ⟨hbusy, hlat⟩
  · exact absurd hsame.err hne

/-! ### No block after exhaustion (R26, R125) -/

/-- Settles O51: where EXH = 1 the FSM state is past INITIALIZED (`StreamInv.of_exh`), so SEEK is refused, and an XOR that is
not stays within the buffer. -/
theorem noBlockAfterExhaustion : Obligations.NoBlockAfterExhaustion := by
  rintro i s ⟨hstream, -⟩ hexh
  obtain ⟨hfsm, -, -⟩ := hstream.of_exh hexh
  obtain ⟨t, ht⟩ := exec_eq_next i s
  refine ⟨t, ht, ?_⟩
  rcases exec_next_cases ht with ⟨_, -, rfl⟩ | ⟨_, -, -, -, -, rfl⟩ | ⟨-, rfl⟩ | ⟨hi, rfl⟩ | ⟨b, -, hinit, rfl⟩ |
    ⟨len, -, -, -, hx, rfl⟩ | ⟨-, rfl⟩ | ⟨hi, rfl⟩
  · exact .inl ⟨rfl, rfl, hexh⟩
  · exact .inl ⟨rfl, rfl, hexh⟩
  · exact .inl ⟨rfl, rfl, hexh⟩
  · exact .inr ⟨.inl hi, rfl, rfl, rfl⟩
  · rcases hfsm with hf | hf <;> exact absurd (hinit.symm.trans hf) nofun
  · rcases xorEffect_stream s (n := len.toNat) (by omega) with ⟨-, heq, -⟩ | ⟨hoff, -, -⟩
    · rw [heq]
      exact .inl ⟨rfl, rfl, hexh⟩
    · exact absurd (hexh.symm.trans (exh_eq_false_of_straddle hx hoff)) nofun
  · exact .inl ⟨rfl, rfl, hexh⟩
  · exact .inr ⟨.inr hi, rfl, rfl, rfl⟩

/-! ### WERR (R38) -/

/-- What a write does to WERR: a dropped one sets it, one to STATUS with bit 2 clears it, no other changes it. -/
theorem portWrite_werr (off : BitVec 8) (v : Word) (s : State) :
    (s.busy = true ∧ (slotOf off).isFrozen = true ∧ (portWrite off v s).werr = true) ∨
    (slotOf off = .status ∧ (portWrite off v s).werr = (s.werr && !v.getLsbD 2)) ∨
    (portWrite off v s).werr = s.werr := by
  rcases portWrite_cases off v s with ⟨hbusy, hfrozen, h⟩ | ⟨-, h⟩
  · exact .inl ⟨hbusy, hfrozen, by rw [h]⟩
  · rw [h]
    cases slotOf off with
    | status => exact .inr (.inl ⟨rfl, rfl⟩)
    | _ => exact .inr (.inr rfl)

theorem hostAction_werr {s : State} (hr : s.inputs.head? ≠ some .reset) :
    (s.busy = true ∧ (∃ off v rest, s.inputs = .write off v :: rest ∧ (slotOf off).isFrozen = true) ∧
      (hostAction s).werr = true) ∨
    (∃ off v rest, s.inputs = .write off v :: rest ∧ slotOf off = .status ∧
      (hostAction s).werr = (s.werr && !v.getLsbD 2)) ∨
    (hostAction s).werr = s.werr := by
  obtain ⟨u, rest, heq, -, hu⟩ := hostAction_cases s hr
  rw [heq]
  rcases hu with rfl | ⟨off, rfl⟩ | ⟨off, v, hin, rfl⟩
  · exact .inr (.inr rfl)
  · exact .inr (.inr (portRead_werr off s))
  · rcases portWrite_werr off v s with ⟨hbusy, hfrozen, h⟩ | ⟨hstatus, h⟩ | h
    · exact .inl ⟨hbusy, ⟨off, v, rest, hin, hfrozen⟩, h⟩
    · exact .inr (.inl ⟨off, v, rest, hin, hstatus, h⟩)
    · exact .inr (.inr h)

theorem coreStep_werr {s t : State} (h : coreStep s = .next t) : t.werr = s.werr := by
  rcases coreStep_next_cases h with ⟨i, -, hi⟩ | ⟨-, -, rfl⟩
  · obtain ⟨c, u, rfl, hu⟩ := exec_next_complete hi
    exact hu.werr
  · rfl

/-- Settles O52: by `hostAction_werr`; a completion leaves WERR, and a reset clears it. -/
theorem werrRecordsDroppedWrites : Obligations.WerrRecordsDroppedWrites := by
  intro s t h
  have hkept (hkeep : t.werr = s.werr) {p q : Prop} :
      (s.werr = false → t.werr = true → p) ∧ (s.werr = true → t.werr = false → q) := by
    rw [hkeep]
    exact ⟨fun h0 h1 => absurd (h0.symm.trans h1) nofun, fun h1 h0 => absurd (h0.symm.trans h1) nofun⟩
  rcases step_next_cases h with ⟨hr, rest, -, rfl⟩ | ⟨-, -, -, hcore⟩ | ⟨hr, -, rfl, -⟩
  · exact ⟨fun _ h => absurd h nofun, fun _ _ => .inl hr⟩
  · exact hkept (coreStep_werr hcore)
  · have hhost := hostAction_werr (s := coreTick s) (by rwa [coreTick_inputs])
    rw [coreTick_busy, coreTick_inputs, coreTick_werr] at hhost
    rcases hhost with ⟨hbusy, hwrite, hset⟩ | ⟨off, v, rest, hin, hstatus, hclear⟩ | hkeep
    · exact ⟨fun _ _ => ⟨hbusy, hwrite⟩, fun _ h => absurd (hset.symm.trans h) nofun⟩
    · rw [hclear]
      refine ⟨fun h0 h1 => ?_, fun h1 h0 => .inr ⟨off, v, rest, hin, hstatus, ?_⟩⟩
      · rw [h0, Bool.false_and] at h1; exact absurd h1 nofun
      · rwa [h1, Bool.true_and, Bool.not_eq_false'] at h0
    · exact hkept hkeep

end Sys2Proof.Machine
end

section
/-! The ARX datapath: rotation, the quarter-round and the rounds as bijections, the layout and the golden block
(40_arx_datapath.md R111 to R122). -/

namespace Sys2Proof.Machine

/-! ### Rotation (R111) -/

/-- rotl32 is the library's rotation. -/
theorem rotl32_eq_rotateLeft (v : Word) {r : Nat} (hr : r < 32) : rotl32 v r = v.rotateLeft r := by
  rw [BitVec.rotateLeft_def, Nat.mod_eq_of_lt hr, rotl32]

theorem rotl32_getLsbD (v : Word) {r i : Nat} (hr0 : 0 < r) (hr : r < 32) (hi : i < 32) :
    (rotl32 v r).getLsbD i = v.getLsbD ((i + 32 - r) % 32) := by
  rw [rotl32_eq_rotateLeft v hr, BitVec.getLsbD_rotateLeft, Nat.mod_eq_of_lt hr]
  by_cases hlow : i < r
  · have hidx : (i + 32 - r) % 32 = 32 - r + i := by omega
    rw [hidx, decide_eq_true hlow, cond_true]
  · have hidx : (i + 32 - r) % 32 = i - r := by omega
    rw [hidx, decide_eq_false hlow, cond_false, decide_eq_true hi, Bool.true_and]

/-- Settles O6: the bits move by r modulo 32, so a rotation by r and one by 32 - r move each back to its place. -/
theorem rotationPermutesBits : Obligations.RotationPermutesBits := by
  intro v r hr0 hr
  refine ⟨fun i hi => rotl32_getLsbD v hr0 hr hi, BitVec.eq_of_getLsbD_eq fun i hi => ?_⟩
  have hback : ((i + 32 - (32 - r)) % 32 + 32 - r) % 32 = i := by omega
  rw [rotl32_getLsbD _ (by omega) (by omega) hi, rotl32_getLsbD _ hr0 hr (Nat.mod_lt _ (by omega)), hback]

/-! ### The quarter-round (R112) -/

/-- The quarter-round backwards: each line of R112 undone, the last first. -/
def inverseQuarterRound (q : Quad) : Quad :=
  let a := q.a ^^^ rotateAdd q.d q.c 18
  let d := q.d ^^^ rotateAdd q.c q.b 13
  let c := q.c ^^^ rotateAdd q.b a 9
  let b := q.b ^^^ rotateAdd a d 7
  ⟨a, b, c, d⟩

theorem xor_xor_cancel_word (x y : Word) : x ^^^ y ^^^ y = x := by
  rw [BitVec.xor_assoc, BitVec.xor_self, BitVec.xor_zero]

theorem inverseQuarterRound_quarterRound (q : Quad) : inverseQuarterRound (quarterRound q) = q := by
  simp only [quarterRound, inverseQuarterRound, xor_xor_cancel_word]

theorem quarterRound_inverseQuarterRound (q : Quad) : quarterRound (inverseQuarterRound q) = q := by
  simp only [quarterRound, inverseQuarterRound, xor_xor_cancel_word]

/-- Settles O7: each line XORs one word with a function of the others, so undoing the lines in reverse order is the inverse. -/
theorem quarterRoundIsInvertible : Obligations.QuarterRoundIsInvertible :=
  Function.bijective_iff_has_inverse.2
    ⟨inverseQuarterRound, inverseQuarterRound_quarterRound, quarterRound_inverseQuarterRound⟩

/-! ### The rounds (R113 to R116) -/

/-- f on the four groups of the column round (R114). -/
def mapColumns (f : Quad → Quad) (x : Words16) : Words16 :=
  let g0 := f ⟨x.w0, x.w4, x.w8, x.w12⟩
  let g1 := f ⟨x.w5, x.w9, x.w13, x.w1⟩
  let g2 := f ⟨x.w10, x.w14, x.w2, x.w6⟩
  let g3 := f ⟨x.w15, x.w3, x.w7, x.w11⟩
  { w0 := g0.a, w4 := g0.b, w8 := g0.c, w12 := g0.d
    w5 := g1.a, w9 := g1.b, w13 := g1.c, w1 := g1.d
    w10 := g2.a, w14 := g2.b, w2 := g2.c, w6 := g2.d
    w15 := g3.a, w3 := g3.b, w7 := g3.c, w11 := g3.d }

theorem columnRound_eq_mapColumns : columnRound = mapColumns quarterRound := rfl

/-- The groups do not overlap and cover the matrix, so f undoes g on the matrix where it does on each group. -/
theorem mapColumns_leftInverse {f g : Quad → Quad} (h : Function.LeftInverse f g) :
    Function.LeftInverse (mapColumns f) (mapColumns g) := by
  intro x
  calc
    mapColumns f (mapColumns g x) = mapColumns (f ∘ g) x := rfl
    _ = mapColumns id x := by rw [h.comp_eq_id]
    _ = x := rfl

theorem columnRound_bijective : Function.Bijective columnRound :=
  columnRound_eq_mapColumns ▸ Function.bijective_iff_has_inverse.2
    ⟨mapColumns inverseQuarterRound, mapColumns_leftInverse inverseQuarterRound_quarterRound,
      mapColumns_leftInverse quarterRound_inverseQuarterRound⟩

/-- The matrix with rows and columns exchanged (R22). -/
def transpose (x : Words16) : Words16 :=
  ⟨x.w0, x.w4, x.w8, x.w12, x.w1, x.w5, x.w9, x.w13, x.w2, x.w6, x.w10, x.w14, x.w3, x.w7, x.w11, x.w15⟩

theorem transpose_involutive : Function.Involutive transpose := fun _ => rfl

/-- The row round is the column round of the transposed matrix (R114, R115). -/
theorem rowRound_eq : rowRound = transpose ∘ columnRound ∘ transpose := rfl

theorem rowRound_bijective : Function.Bijective rowRound :=
  rowRound_eq ▸ transpose_involutive.bijective.comp (columnRound_bijective.comp transpose_involutive.bijective)

/-- Settles O9: each group's words are the quarter-round of the same words of the matrix before. -/
theorem roundsMixAllFourGroups : Obligations.RoundsMixAllFourGroups := by
  refine ⟨fun x => ?_, fun x => ?_⟩
  all_goals
    simp only [List.forall_mem_cons]
    exact ⟨rfl, rfl, rfl, rfl, nofun⟩

/-! ### The permutation (R117) -/

/-- n double rounds are the double round iterated. -/
theorem doubleRounds_eq_iterate (n : Nat) : doubleRounds n = doubleRound^[n] := by
  induction n with
  | zero => rfl
  | succ n ih =>
    funext x
    rw [doubleRounds, ih, Function.iterate_succ_apply]

theorem permute_eq_iterate : permute = doubleRound^[10] := doubleRounds_eq_iterate 10

theorem doubleRound_bijective : Function.Bijective doubleRound := rowRound_bijective.comp columnRound_bijective

/-- Settles O8: an iterate of the double round, which is a bijection since both its rounds are. -/
theorem permutationIsABijection : Obligations.PermutationIsABijection :=
  ⟨permute_eq_iterate ▸ doubleRound_bijective.iterate 10, permute_zero, congrFun permute_eq_iterate⟩

/-! ### The layout and the golden block (R120 to R122) -/

theorem block_zero : block Words8.zero Words2.zero 0 =
    ⟨0x5BF6979A, 0x1B724C9B, 0x21670A96, 0xD4A8FC45, 0xF9672EE3, 0x79A91E11, 0x26489CCE, 0xE6EE6A80,
     0xDAC0E93D, 0x1EF9D72B, 0x9B63B2BC, 0x25C689F9, 0x38BF291B, 0xDC9B9AD3, 0x4B5FC5E7, 0x392AC12A⟩ := by decide

/-- Settles O11: the layout word by word, with the counter's halves as numbers; the golden block is evaluated. -/
theorem layoutAndGoldenBlock : Obligations.LayoutAndGoldenBlock := by
  refine ⟨fun key nonce c => ?_, block_zero⟩
  rw [← counterLo_eq_ofNat, ← counterHi_eq_ofNat]
  rfl

end Sys2Proof.Machine
end

section
/-! The banks of words (00_scope.md R10), and the host's loading of key and nonce into them (30_encoding.md R102,
20_memory.md R68, R69). -/

namespace Sys2Proof

/-! ### Read after write -/

theorem Words2.get_set (x : Words2) (i j : Fin 2) (v : Word) : (x.set i v).get j = if j = i then v else x.get j := by
  fin_cases i <;> fin_cases j <;> rfl

theorem Words8.get_set (x : Words8) (i j : Fin 8) (v : Word) : (x.set i v).get j = if j = i then v else x.get j := by
  fin_cases i <;> fin_cases j <;> rfl

theorem Words16.get_set (x : Words16) (i j : Fin 16) (v : Word) : (x.set i v).get j = if j = i then v else x.get j := by
  fin_cases i <;> fin_cases j <;> rfl

/-- Settles O17: index by index. -/
theorem bankReadsAfterWrites : Obligations.BankReadsAfterWrites := ⟨Words2.get_set, Words8.get_set, Words16.get_set⟩

end Sys2Proof

namespace Sys2Proof.Machine

/-! ### LOADKEY and LOADNONCE -/

/-- The bytes of a word assembled little-endian. -/
theorem leWord_byte (b0 b1 b2 b3 : Byte) :
    (leWord b0 b1 b2 b3).extractLsb' 0 8 = b0 ∧ (leWord b0 b1 b2 b3).extractLsb' 8 8 = b1 ∧
      (leWord b0 b1 b2 b3).extractLsb' 16 8 = b2 ∧ (leWord b0 b1 b2 b3).extractLsb' 24 8 = b3 := by
  have h0 := b0.isLt
  have h1 := b1.isLt
  have h2 := b2.isLt
  have h3 := b3.isLt
  simp only [extractLsb'_eq_iff_toNat, leWord, toNat_append_eq]
  refine ⟨?_, ?_, ?_, ?_⟩ <;> omega

theorem keyWord_byte (k : Fin 32 → Byte) (i : Fin 8) (j : Fin 4) :
    (keyWord k i).extractLsb' (8 * j.val) 8 = k ⟨4 * i.val + j.val, by omega⟩ := by
  obtain ⟨h0, h1, h2, h3⟩ := leWord_byte (k ⟨4 * i.val, by omega⟩) (k ⟨4 * i.val + 1, by omega⟩)
    (k ⟨4 * i.val + 2, by omega⟩) (k ⟨4 * i.val + 3, by omega⟩)
  match j with
  | 0 => exact h0
  | 1 => exact h1
  | 2 => exact h2
  | 3 => exact h3

theorem nonceWord_byte (n : Fin 8 → Byte) (i : Fin 2) (j : Fin 4) :
    (nonceWord n i).extractLsb' (8 * j.val) 8 = n ⟨4 * i.val + j.val, by omega⟩ := by
  obtain ⟨h0, h1, h2, h3⟩ := leWord_byte (n ⟨4 * i.val, by omega⟩) (n ⟨4 * i.val + 1, by omega⟩)
    (n ⟨4 * i.val + 2, by omega⟩) (n ⟨4 * i.val + 3, by omega⟩)
  match j with
  | 0 => exact h0
  | 1 => exact h1
  | 2 => exact h2
  | 3 => exact h3

/-- While BUSY = 0 a write that stands first in the inputs is made by the step. -/
theorem step_write_idle {s : State} {sl : Slot} {v : Word} {rest : List Input} (hidle : s.busy = false)
    (hin : s.inputs = .write sl.offset v :: rest) : step s = .next { writeSlot v s sl with inputs := rest } := by
  refine step_eq_of_hostAction (.inl hidle) (by simp [hin]) ?_
  rw [coreTick_of_idle s hidle, hostAction_write hin, portWrite_idle _ v s hidle, slotOf_offset]

/-- The state after a list of writes, each a register and a word. -/
def writeAll (ws : List (Slot × Word)) (s : State) : State := ws.foldl (fun s w => writeSlot w.2 s w.1) s

theorem writeSlot_withInputs (v : Word) (s : State) (l : List Input) (sl : Slot) :
    writeSlot v { s with inputs := l } sl = { writeSlot v s sl with inputs := l } := by
  cases sl <;> rfl

theorem writeSlot_busy {sl : Slot} (hcmd : sl ≠ .cmd) (v : Word) (s : State) : (writeSlot v s sl).busy = s.busy := by
  cases sl with
  | cmd => exact absurd rfl hcmd
  | _ => rfl

theorem writeAll_withInputs (ws : List (Slot × Word)) (s : State) (l : List Input) :
    writeAll ws { s with inputs := l } = { writeAll ws s with inputs := l } := by
  induction ws generalizing s with
  | nil => rfl
  | cons w ws ih =>
    show writeAll ws (writeSlot w.2 { s with inputs := l } w.1) = _
    rw [writeSlot_withInputs, ih]
    rfl

/-- Writes that start no command are made one a step. -/
theorem run_writeAll (ws : List (Slot × Word)) (hcmd : ∀ w ∈ ws, w.1 ≠ .cmd) {s : State} {rest : List Input}
    (hidle : s.busy = false) (hin : s.inputs = (ws.flatMap fun w => hostWR w.1 w.2) ++ rest) :
    Host.Core.run Sys2Proof.core ws.length s = .next { writeAll ws s with inputs := rest } := by
  induction ws generalizing s with
  | nil => obtain rfl : s.inputs = rest := hin; rfl
  | cons w ws ih =>
    have hbusy := (writeSlot_busy (hcmd w List.mem_cons_self) w.2 s).trans hidle
    refine (core_run_succ (step_write_idle hidle hin) ws.length).trans ?_
    rw [ih (fun w' hw' => hcmd w' (List.mem_cons_of_mem w hw')) (by exact hbusy) rfl, writeAll_withInputs]
    rfl

/-- The writes of LOADKEY and LOADNONCE (R102). -/
def loadWrites (k : Fin 32 → Byte) (n : Fin 8 → Byte) : List (Slot × Word) :=
  (List.finRange 8).map (fun i => (.keyIn i, keyWord k i)) ++ (List.finRange 2).map fun i => (.nonceIn i, nonceWord n i)

theorem hostLOAD_eq_loadWrites (k : Fin 32 → Byte) (n : Fin 8 → Byte) :
    hostLOADKEY k ++ hostLOADNONCE n = (loadWrites k n).flatMap fun w => hostWR w.1 w.2 := rfl

theorem loadWrites_ne_cmd (k : Fin 32 → Byte) (n : Fin 8 → Byte) : ∀ w ∈ loadWrites k n, w.1 ≠ .cmd := by
  intro w hw
  rcases List.mem_append.1 hw with h | h <;> obtain ⟨i, -, rfl⟩ := List.mem_map.1 h <;> nofun

/-- The key's bytes as the words of KEY_IN. -/
def keyBank (k : Fin 32 → Byte) : Words8 :=
  ⟨keyWord k 0, keyWord k 1, keyWord k 2, keyWord k 3, keyWord k 4, keyWord k 5, keyWord k 6, keyWord k 7⟩

/-- The nonce's bytes as the words of NONCE_IN. -/
def nonceBank (n : Fin 8 → Byte) : Words2 := ⟨nonceWord n 0, nonceWord n 1⟩

theorem keyBank_get (k : Fin 32 → Byte) (i : Fin 8) : (keyBank k).get i = keyWord k i := by fin_cases i <;> rfl

theorem nonceBank_get (n : Fin 8 → Byte) (i : Fin 2) : (nonceBank n).get i = nonceWord n i := by fin_cases i <;> rfl

theorem writeAll_keyIn (f : Fin 8 → Word) (l : List (Fin 8)) (s : State) :
    writeAll (l.map fun i => (.keyIn i, f i)) s = { s with keyIn := l.foldl (fun x i => x.set i (f i)) s.keyIn } := by
  induction l generalizing s with
  | nil => rfl
  | cons i l ih => exact ih (writeSlot (f i) s (.keyIn i))

theorem writeAll_nonceIn (f : Fin 2 → Word) (l : List (Fin 2)) (s : State) :
    writeAll (l.map fun i => (.nonceIn i, f i)) s =
      { s with nonceIn := l.foldl (fun x i => x.set i (f i)) s.nonceIn } := by
  induction l generalizing s with
  | nil => rfl
  | cons i l ih => exact ih (writeSlot (f i) s (.nonceIn i))

theorem foldl_set_eq_keyBank (k : Fin 32 → Byte) (x : Words8) :
    (List.finRange 8).foldl (fun x i => x.set i (keyWord k i)) x = keyBank k := rfl

theorem foldl_set_eq_nonceBank (n : Fin 8 → Byte) (x : Words2) :
    (List.finRange 2).foldl (fun x i => x.set i (nonceWord n i)) x = nonceBank n := rfl

/-- The ten writes fill both staging registers and touch nothing else. -/
theorem writeAll_loadWrites (k : Fin 32 → Byte) (n : Fin 8 → Byte) (s : State) :
    writeAll (loadWrites k n) s = { s with keyIn := keyBank k, nonceIn := nonceBank n } := by
  calc
    writeAll (loadWrites k n) s
      = writeAll ((List.finRange 2).map fun i => (.nonceIn i, nonceWord n i))
          (writeAll ((List.finRange 8).map fun i => (.keyIn i, keyWord k i)) s) := List.foldl_append
    _ = _ := by rw [writeAll_keyIn, writeAll_nonceIn, foldl_set_eq_keyBank, foldl_set_eq_nonceBank]

/-- Settles O60: the ten steps make the writes (`run_writeAll`), and each word's bytes are those it was assembled from. -/
theorem loadedKeyIsLittleEndian : Obligations.LoadedKeyIsLittleEndian := by
  intro s k n rest hidle hin
  rw [hostLOAD_eq_loadWrites] at hin
  have hrun := run_writeAll (loadWrites k n) (loadWrites_ne_cmd k n) hidle hin
  rw [writeAll_loadWrites] at hrun
  refine ⟨_, hrun, rfl, fun i j => ?_, fun i j => ?_⟩
  · exact (congrArg _ (keyBank_get k i)).trans (keyWord_byte k i j)
  · exact (congrArg _ (nonceBank_get n i)).trans (nonceWord_byte n i j)

end Sys2Proof.Machine
end

section
/-! The keystream as one stream of bytes: position, capacity, every split of a message, and decryption
(42_keystream_commands.md R160 to R165). -/

namespace Sys2Proof.Machine

/-! ### Position and capacity (R160, R165) -/

/-- The number of the block that the next refill would generate; past the last one, 2^64. -/
def nextBlock (s : State) : Nat := if s.exh then 2 ^ 64 else s.ctr.toNat

theorem nextBlock_le (s : State) : nextBlock s ≤ 2 ^ 64 := by
  have hlt := s.ctr.isLt
  unfold nextBlock
  split <;> omega

theorem streamPos_eq (s : State) : streamPos s = nextBlock s * 64 + s.offset.val - 64 := rfl

theorem remaining_eq (s : State) : remaining s = (64 - s.offset.val) + (2 ^ 64 - nextBlock s) * 64 := by
  unfold remaining nextBlock
  cases s.exh
  · rfl
  · simp

theorem nextBlock_of_not_exh {s : State} (hexh : s.exh = false) : nextBlock s = s.ctr.toNat := by
  rw [nextBlock, hexh]; rfl

/-- A streaming XOR is refused exactly if fewer than n bytes remain. -/
theorem le_remaining_iff {s : State} {n : Nat} (hn : n ≤ 4) :
    n ≤ remaining s ↔ ¬ (64 - s.offset.val < n ∧ s.exh = true) := by
  have hlt := s.ctr.isLt
  rw [remaining_eq, nextBlock]
  cases s.exh with
  | false =>
    have hmore : n ≤ 64 - s.offset.val + (2 ^ 64 - s.ctr.toNat) * 64 := by omega
    exact ⟨fun _ h => absurd h.2 nofun, fun _ => hmore⟩
  | true => simp

section
variable {s : State} (hs : StreamInv s) (hf : Streaming s)
include hs hf

/-- The buffer holds the block before the next one, or is empty: the position does not fall below 0. -/
theorem block_in_buffer : 64 ≤ nextBlock s * 64 + s.offset.val := by
  rcases hf with hf | hf
  · obtain ⟨-, -, hoff, -⟩ := (streamInv_initialized hf).1 hs
    rw [hoff]; exact Nat.le_add_left 64 _
  · obtain ⟨-, -, hexh⟩ := (streamInv_generating hf).1 hs
    have hpos : nextBlock s ≠ 0 := by
      unfold nextBlock
      split
      case isTrue => exact nofun
      case isFalse h => exact fun h0 => h (hexh.2 (BitVec.eq_of_toNat_eq h0))
    omega

/-- The position counted with the block in the buffer. -/
theorem streamPos_add_block : streamPos s + 64 = nextBlock s * 64 + s.offset.val := by
  have hbuf := block_in_buffer hs hf
  rw [streamPos_eq]; omega

theorem streamPos_add_remaining : streamPos s + remaining s = 2 ^ 70 := by
  have hbuf := block_in_buffer hs hf
  have hle := nextBlock_le s
  have hoff := s.offset.isLt
  rw [streamPos_eq, remaining_eq]
  omega

/-! ### The upcoming bytes are those of the stream (R160) -/

omit hs hf in
theorem keystreamByte_block (key : Words8) (nonce : Words2) (b : Nat) {i : Nat} (hi : i < 64) :
    keystreamByte key nonce (b * 64 + i) = blockByte (block key nonce (BitVec.ofNat 64 b)) (Fin.ofNat 64 i) := by
  have hdiv : (b * 64 + i) / 64 = b := by omega
  have hmod : Fin.ofNat 64 (b * 64 + i) = Fin.ofNat 64 i := by
    apply Fin.ext
    show (b * 64 + i) % 64 = i % 64
    omega
  rw [keystreamByte, hdiv, hmod]

/-- A buffer with bytes left holds the block before the next one. -/
theorem ks_of_offset_lt (hoff : s.offset.val < 64) :
    1 ≤ nextBlock s ∧ s.ks = block s.key s.nonce (BitVec.ofNat 64 (nextBlock s - 1)) := by
  have hbuf := block_in_buffer hs hf
  refine ⟨by omega, ?_⟩
  rcases hf with hf | hf
  · obtain ⟨-, -, hfull, -⟩ := (streamInv_initialized hf).1 hs
    rw [hfull] at hoff
    exact absurd hoff (Nat.lt_irrefl 64)
  · obtain ⟨hks, -, hexh⟩ := (streamInv_generating hf).1 hs
    have hctr : BitVec.ofNat 64 (nextBlock s) = s.ctr := by
      unfold nextBlock
      split
      case isTrue h => rw [hexh.1 h]; rfl
      case isFalse => rw [BitVec.ofNat_toNat, BitVec.setWidth_eq]
    rw [hks, ← hctr]
    congr 1
    apply BitVec.eq_of_toNat_eq
    have hone : (1 : BitVec 64).toNat = 1 := rfl
    rw [BitVec.toNat_sub, BitVec.toNat_ofNat, BitVec.toNat_ofNat, hone]
    omega

/-- The keystream byte k places ahead is the one at the position k further on. -/
theorem upcoming_eq_keystreamByte {k : Nat} (hk : k < 64) (hx : 64 ≤ s.offset.val + k → s.exh = false) :
    upcoming s k = keystreamByte s.key s.nonce (streamPos s + k) := by
  have hpos := streamPos_add_block hs hf
  have hoff := s.offset.isLt
  unfold upcoming
  split
  case isTrue hin =>
    obtain ⟨hone, hks⟩ := ks_of_offset_lt hs hf (by omega)
    have hp : streamPos s + k = (nextBlock s - 1) * 64 + (s.offset.val + k) := by omega
    rw [hp, keystreamByte_block _ _ _ hin, hks]
  case isFalse hout =>
    have hnext := nextBlock_of_not_exh (hx (by omega))
    have hp : streamPos s + k = s.ctr.toNat * 64 + (s.offset.val + k - 64) := by omega
    rw [hp, keystreamByte_block _ _ _ (by omega), BitVec.ofNat_toNat, BitVec.setWidth_eq]

end

/-! ### One XOR on the stream -/

/-- A refill where EXH = 0 moves on to the next block. -/
theorem nextBlock_refill {s : State} (hexh : s.exh = false) : nextBlock (refill s) = nextBlock s + 1 := by
  have hlt := s.ctr.isLt
  rw [nextBlock_of_not_exh hexh, nextBlock, refill_exh, hexh, Bool.false_or, refill_ctr, nextCtr_toNat]
  split
  case isTrue h => rw [wraps_iff] at h; omega
  case isFalse h => rw [wraps_iff] at h; omega

theorem nextBlock_xorEffect {s : State} {n : Nat} (hn : n ≤ 64) (hx : ¬ (64 - s.offset.val < n ∧ s.exh = true)) :
    nextBlock (xorEffect n s) * 64 + (xorEffect n s).offset.val = nextBlock s * 64 + s.offset.val + n := by
  rcases xorEffect_stream s hn with ⟨-, heq, hval⟩ | ⟨hoff, heq, hval⟩
  · have hsame : nextBlock (xorEffect n s) = nextBlock s := by rw [heq]; rfl
    rw [hsame, hval]; omega
  · have hnext : nextBlock (xorEffect n s) = nextBlock (refill s) := by rw [heq]; rfl
    rw [hnext, nextBlock_refill (exh_eq_false_of_straddle hx hoff), hval]; omega

theorem streaming_xorEffect {s : State} {n : Nat} (hn : n ≤ 64) (hf : Streaming s) : Streaming (xorEffect n s) := by
  unfold Streaming
  rw [xorEffect_fsm s hn]
  split
  · exact hf
  · exact .inr rfl

/-- What a streaming XOR of no more bytes than remain does: the next bytes of the stream, on to the next position. -/
structure XorStreams (len : BitVec 3) (s t : State) : Prop where
  err : t.err = 0
  inv : BlockInv t
  streaming : Streaming t
  key : t.key = s.key
  nonce : t.nonce = s.nonce
  pos : streamPos t = streamPos s + len.toNat
  rem : remaining t = remaining s - len.toNat
  bytes : ∀ j, j < len.toNat → wordByte t.dout j = wordByte s.din j ^^^ keystreamByte s.key s.nonce (streamPos s + j)

theorem exec_xor_streams {len : BitVec 3} {s : State} (hs : StreamInv s) (hf : Streaming s) (hlen : len.toNat ≤ 4)
    (hrem : len.toNat ≤ remaining s) : ∃ t, exec (.xor len) s = .next t ∧ XorStreams len s t := by
  have hx := (le_remaining_iff hlen).1 hrem
  have ht := streamInv_xorEffect hs hf (by omega : len.toNat ≤ 64) hx
  have hft := streaming_xorEffect (by omega : len.toNat ≤ 64) hf
  have hpos : streamPos (xorEffect len.toNat s) = streamPos s + len.toNat := by
    have h1 := streamPos_add_block hs hf
    have h2 := streamPos_add_block ht hft
    have h3 := nextBlock_xorEffect (by omega : len.toNat ≤ 64) hx
    omega
  refine ⟨_, exec_xor_ok hlen hf hx, rfl, ht.blockInv_complete _, hft, xorEffect_key _ s, xorEffect_nonce _ s, hpos, ?_,
    fun j hj => ?_⟩
  · have h1 := streamPos_add_remaining hs hf
    have h2 := streamPos_add_remaining ht hft
    show remaining (xorEffect len.toNat s) = _
    omega
  · rw [← upcoming_eq_keystreamByte hs hf (by omega) fun hout =>
      Bool.eq_false_iff.2 fun hexh => hx ⟨by omega, hexh⟩]
    exact (xorEffect_dout _ s hlen j (by omega)).trans (if_pos hj)

/-- Settles O41: by `exec_xor_streams`. -/
theorem xorFollowsTheKeystream : Obligations.XorFollowsTheKeystream := by
  rintro len s ⟨hs, -⟩ hf hlen hrem
  obtain ⟨t, ht, hx⟩ := exec_xor_streams hs hf hlen hrem
  exact ⟨t, ht, hx.err, hx.streaming, hx.key, hx.nonce, hx.pos, hx.bytes⟩

theorem exec_xor_no_capacity {len : BitVec 3} {s : State} (hf : Streaming s) (hlen : len.toNat ≤ 4)
    (hrem : remaining s < len.toNat) :
    exec (.xor len) s = .next (complete .counterOverflow { s with fsm := .overflow }) :=
  exec_xor_exhausted hlen hf (not_not.1 (mt (le_remaining_iff hlen).2 (Nat.not_le.2 hrem)))

/-- Settles O42: by `streamPos_add_remaining`, `exec_xor_streams` and `exec_xor_no_capacity`. -/
theorem remainingCapacityCountsDown : Obligations.RemainingCapacityCountsDown := by
  rintro len s ⟨hs, -⟩ hf hlen
  refine ⟨streamPos_add_remaining hs hf, fun hrem => ?_, exec_xor_no_capacity hf hlen⟩
  obtain ⟨t, ht, hx⟩ := exec_xor_streams hs hf hlen hrem
  exact ⟨t, ht, hx.err, hx.rem⟩

/-! ### Requests (R163) -/

/-- The bytes b from position p on, XORed with the keystream. -/
def xorStream (key : Words8) (nonce : Words2) (p : Nat) (bs : List Byte) : List Byte :=
  bs.mapIdx fun n b => b ^^^ keystreamByte key nonce (p + n)

theorem xorStream_append (key : Words8) (nonce : Words2) (p : Nat) (bs cs : List Byte) :
    xorStream key nonce p (bs ++ cs) = xorStream key nonce p bs ++ xorStream key nonce (p + bs.length) cs := by
  rw [xorStream, xorStream, xorStream, List.mapIdx_append]
  simp only [Nat.add_assoc, Nat.add_comm bs.length]

/-- XORing twice with the same keystream gives the bytes back. -/
theorem xorStream_xorStream (key : Words8) (nonce : Words2) (p : Nat) (bs : List Byte) :
    xorStream key nonce p (xorStream key nonce p bs) = bs := by
  apply List.ext_getElem
  · simp [xorStream]
  · intro n _ _
    simp [xorStream]

@[simp] theorem dataBytes_length (len : BitVec 3) (w : Word) : (dataBytes len w).length = len.toNat := by
  simp [dataBytes]

/-- The result bytes of a streaming XOR are its data bytes on the stream. -/
theorem XorStreams.dataBytes_dout {len : BitVec 3} {s t : State} (h : XorStreams len s t) :
    dataBytes len t.dout = xorStream s.key s.nonce (streamPos s) (dataBytes len s.din) := by
  apply List.ext_getElem
  · simp [xorStream]
  · intro j hj _
    rw [dataBytes_length] at hj
    simpa [xorStream, dataBytes] using h.bytes j hj

section
variable {len : BitVec 3} {d : Word} {s : State}

theorem xorRequest_streams (hs : StreamInv s) (hf : Streaming s) (hlen : len.toNat ≤ 4) (hrem : len.toNat ≤ remaining s) :
    ∃ t, xorRequest len d s = some (t.dout, t) ∧ XorStreams len { s with din := d } t := by
  obtain ⟨t, ht, hx⟩ := exec_xor_streams (s := { s with din := d }) hs hf hlen hrem
  refine ⟨t, ?_, hx⟩
  unfold xorRequest
  rw [ht]
  exact if_pos hx.err

theorem xorRequest_no_capacity (hf : Streaming s) (hlen : len.toNat ≤ 4) (hrem : remaining s < len.toNat) :
    xorRequest len d s = none := by
  unfold xorRequest
  rw [exec_xor_no_capacity (s := { s with din := d }) hf hlen hrem]
  exact if_neg (show ResultCode.counterOverflow.number ≠ ResultCode.ok.number by decide)

theorem xorRun_cons {rs : List (BitVec 3 × Word)} {w : Word} {t : State} (h : xorRequest len d s = some (w, t)) :
    xorRun ((len, d) :: rs) s = (xorRun rs t).map fun p => (w :: p.1, p.2) := by
  simp only [xorRun, h]
  cases xorRun rs t <;> rfl

end

/-- Any requests for no more bytes than remain succeed, and their results are the message on the stream. -/
theorem xorRun_streams (rs : List (BitVec 3 × Word)) {s : State} (hs : StreamInv s) (hf : Streaming s)
    (hlen : ∀ r ∈ rs, r.1.toNat ≤ 4) (hrem : requestLength rs ≤ remaining s) :
    ∃ ws t, xorRun rs s = some (ws, t) ∧ ws.length = rs.length ∧ streamPos t = streamPos s + requestLength rs ∧
      requestBytes ((rs.map Prod.fst).zip ws) = xorStream s.key s.nonce (streamPos s) (requestBytes rs) := by
  induction rs generalizing s with
  | nil => exact ⟨[], s, rfl, rfl, rfl, rfl⟩
  | cons r rs ih =>
    obtain ⟨len, d⟩ := r
    have hsum : requestLength ((len, d) :: rs) = len.toNat + requestLength rs := rfl
    rw [hsum] at hrem
    have hlen0 : len.toNat ≤ 4 := hlen _ List.mem_cons_self
    obtain ⟨t, ht, hx⟩ := xorRequest_streams (d := d) hs hf hlen0 (by omega)
    have hremt : remaining t = remaining s - len.toNat := hx.rem
    have hpost : streamPos t = streamPos s + len.toNat := hx.pos
    obtain ⟨ws, u, hu, hws, hposu, hbytes⟩ :=
      ih hx.inv.1 hx.streaming (fun r hr => hlen r (List.mem_cons_of_mem _ hr)) (by omega)
    refine ⟨t.dout :: ws, u, by rw [xorRun_cons ht, hu]; rfl, by rw [List.length_cons, hws]; rfl, by omega, ?_⟩
    calc
      dataBytes len t.dout ++ requestBytes ((rs.map Prod.fst).zip ws)
        = xorStream s.key s.nonce (streamPos s) (dataBytes len d) ++
            xorStream s.key s.nonce (streamPos s + len.toNat) (requestBytes rs) := by
          rw [hx.dataBytes_dout, hbytes, hx.key, hx.nonce, hpost]; rfl
      _ = xorStream s.key s.nonce (streamPos s) (dataBytes len d ++ requestBytes rs) := by
          rw [xorStream_append, dataBytes_length]

/-- Settles O43: by `xorRun_streams`, an induction over the requests. -/
theorem streamingIsConsistentForEverySplit : Obligations.StreamingIsConsistentForEverySplit :=
  fun rs _ hinv hf hlen hrem => xorRun_streams rs hinv.1 hf hlen hrem

/-! ### Decryption (R164) -/

/-- Requests that all succeed asked for no more bytes than remained. -/
theorem requestLength_le_remaining (rs : List (BitVec 3 × Word)) {s : State} {p : List Word × State}
    (hs : StreamInv s) (hf : Streaming s) (hlen : ∀ r ∈ rs, r.1.toNat ≤ 4) (hrun : xorRun rs s = some p) :
    requestLength rs ≤ remaining s := by
  induction rs generalizing s p with
  | nil => exact Nat.zero_le _
  | cons r rs ih =>
    obtain ⟨len, d⟩ := r
    have hsum : requestLength ((len, d) :: rs) = len.toNat + requestLength rs := rfl
    have hlen0 : len.toNat ≤ 4 := hlen _ List.mem_cons_self
    rcases Nat.lt_or_ge (remaining s) len.toNat with hless | hrem
    · simp only [xorRun, xorRequest_no_capacity (d := d) hf hlen0 hless] at hrun
      exact absurd hrun nofun
    · obtain ⟨u, hu, hx⟩ := xorRequest_streams (d := d) hs hf hlen0 hrem
      rw [xorRun_cons hu, Option.map_eq_some_iff] at hrun
      obtain ⟨_, hp, -⟩ := hrun
      have hrest := ih hx.inv.1 hx.streaming (fun r hr => hlen r (List.mem_cons_of_mem _ hr)) hp
      have hremu : remaining u = remaining s - len.toNat := hx.rem
      omega

theorem requestLength_eq (rs : List (BitVec 3 × Word)) :
    requestLength rs = ((rs.map Prod.fst).map BitVec.toNat).sum := by
  rw [List.map_map]; rfl

/-- Requests with the same lengths on other words. -/
theorem map_fst_zip_words {rs : List (BitVec 3 × Word)} {ws : List Word} (h : ws.length = rs.length) :
    (((rs.map Prod.fst).zip ws).map Prod.fst) = rs.map Prod.fst :=
  List.map_fst_zip (by rw [List.length_map, h])

/-- Settles O44: both runs XOR with the same keystream (`xorRun_streams`), since position and lengths agree and the capacity
left is a function of the position. -/
theorem decryptionUndoesEncryption : Obligations.DecryptionUndoesEncryption := by
  rintro rs s u t ws ⟨hs, -⟩ ⟨hu, -⟩ hfs hfu hkey hnonce hpos hlen hrun
  have hrem := requestLength_le_remaining rs hs hfs hlen hrun
  obtain ⟨ws', t', hrun', hws, -, hbytes⟩ := xorRun_streams rs hs hfs hlen hrem
  obtain ⟨rfl, rfl⟩ := Prod.mk.inj (Option.some.inj (hrun.symm.trans hrun'))
  have hfst := map_fst_zip_words hws
  have hsame : requestLength ((rs.map Prod.fst).zip ws) = requestLength rs := by
    rw [requestLength_eq, hfst, ← requestLength_eq]
  have hlen' : ∀ r ∈ (rs.map Prod.fst).zip ws, r.1.toNat ≤ 4 := by
    intro r hr
    obtain ⟨r', hr', hfst'⟩ := List.mem_map.1 (List.of_mem_zip hr).1
    exact hfst' ▸ hlen r' hr'
  have hcap : remaining u = remaining s := by
    have h1 := streamPos_add_remaining hs hfs
    have h2 := streamPos_add_remaining hu hfu
    omega
  obtain ⟨ds, v, hds, -, -, hback⟩ := xorRun_streams _ hu hfu hlen' (by omega)
  rw [hfst, hbytes, hkey, hnonce, hpos, xorStream_xorStream] at hback
  exact ⟨ds, v, hds, hback⟩

end Sys2Proof.Machine
end
